-- ==== Sys2Proof/Word.lean ====
section
/-! DEFINITION. The words of GENDEC: bytes, 16-bit fields, 23-bit word addresses, and the two levels of a line
(00_scope.md R6, R7). -/

namespace Sys2Proof

/-- One byte lane of the data bus, or one opcode field. -/
abbrev Byte := BitVec 8

/-- A 16-bit value: `operand`, `miscdata`, `LOW`, `HIGH`, a data word. -/
abbrev Word := BitVec 16

/-- The 23 address lines `A[23:1]`, line A`k` in bit `k - 1` (10_state.md R23). -/
abbrev WordAddr := BitVec 23

/-- The level of one line: the value 0 is `low`, the value 1 is `high` (00_scope.md R7). -/
inductive Level where
  | low
  | high
  deriving DecidableEq, Repr, Inhabited

end Sys2Proof
end

