-- ==== Sys2Proof/Machine/Ports.lean ====
section
/-! DEFINITION. The records that cross GENDEC's boundary: the bus request and its answer, the status and the response
(10_state.md R22 to R24, 60_exceptions.md R135). They are data; what fills them is in the other files of Machine/. -/

namespace Sys2Proof

/-- The kind of a bus request (10_state.md R23). The kind, not the strobe pattern, tells opcodes 4, 5 and 6 apart
(40_dispatch.md R77). -/
inductive RequestKind where
  | romRd
  | wrLo
  | wrHi
  | flashWr
  | sstFlashWr
  deriving DecidableEq, Repr

/-- The levels of the four strobes `#CE`, `#OE`, `#LDSW`, `#UDSW` (10_state.md R23, 40_dispatch.md R77). -/
structure Strobes where
  nCE   : Level
  nOE   : Level
  nLDSW : Level
  nUDSW : Level
  deriving DecidableEq, Repr

/-- The data lines of a request by lane: `low` is D7..D0, `high` is D15..D8. `none` is a lane that is not driven: it
has no value (40_dispatch.md R76, V2). -/
structure Lanes where
  low  : Option Byte
  high : Option Byte
  deriving DecidableEq, Repr

/-- A bus request (10_state.md R23). -/
structure BusReq where
  kind    : RequestKind
  /-- Lines A23..A1, line A`k` in bit `k - 1`. -/
  addr    : WordAddr
  nLoMem  : Level
  nTime   : Level
  strobes : Strobes
  wdata   : Lanes
  /-- Bit 0: the low lane carries data; bit 1: the high lane does. -/
  wmask   : BitVec 2
  deriving DecidableEq, Repr

/-- The Bus Driver's answer to one request (10_state.md R24). `rdata` means something only for a read with `ok`. -/
structure BusAnswer where
  ok    : Bool
  rdata : Word
  deriving DecidableEq, Repr, Inhabited

/-- One entry of the request history: a request and the answer it got (20_memory.md R45). -/
structure Transfer where
  req    : BusReq
  answer : BusAnswer
  deriving DecidableEq, Repr

/-- The status a command ends with (60_exceptions.md R135). `transportFault` is the transport's; GENDEC never gives it
(R140). -/
inductive Status where
  | ok
  | unsupportedOpcode
  | operandOutOfRange
  | busFault
  | transportFault
  deriving DecidableEq, Repr

/-- A response: a status, and a word only for a read that ended OK (10_state.md R22, 40_dispatch.md R74). -/
structure Response where
  status : Status
  data   : Option Word
  deriving DecidableEq, Repr

end Sys2Proof
end

