-- ==== Sys2Proof/Config.lean ====
section
/-! DEFINITION. What one implementation fixes and what the spec leaves open (00_scope.md R6): the parameters, and the
free values, which are constants without a body, so that no proof can see them. -/

namespace Sys2Proof

/-- What an over-wide field does (30_encoding.md R57, R58). -/
inductive RangePolicy where
  | reject
  | truncate
  deriving DecidableEq, Repr

/-- Order of the two bytes of a read response (20_memory.md R35). -/
inductive RdOrder where
  | little
  | big
  deriving DecidableEq, Repr, Inhabited

/-- Whether GEN_SET_ADDR also loads A17 to A23 from miscdata (41_address_setting.md R92). -/
inductive MiscHighMux where
  | off
  | on
  deriving DecidableEq, Repr

/-- Two different positions in 7..15, for `LO_MEM_BIT` and `TIME_BIT` (10_state.md R12, D5): `loMem` picks one of the
nine positions, `time` one of the eight that are left. Every such pair is one value of this type and every value is
such a pair, so no proof field is needed. -/
structure FlagPositions where
  loMem : Fin 9
  time  : Fin 8
  deriving DecidableEq, Repr, Inhabited

/-- The parameters of GENDEC that change what a command does or how its response is cut (00_scope.md R6). -/
structure Params where
  flags       : FlagPositions
  rangePolicy : RangePolicy
  rdOrder     : RdOrder
  miscHighMux : MiscHighMux
  deriving DecidableEq, Repr

/-- OPEN parameter: the two flag positions (D5). DESIGN CHOICE (log 6): a constant no proof can see. -/
opaque Config.flagPositions : FlagPositions

/-- OPEN parameter: the byte order of a read response (D15). DESIGN CHOICE (log 14). -/
opaque Config.rdOrder : RdOrder

/-- Free value: `LOW` after reset (10_state.md R28, D19). DESIGN CHOICE (log 18). -/
opaque Config.resetLow : Word

/-- Free value: `HIGH` after reset (10_state.md R28, D19). DESIGN CHOICE (log 18). -/
opaque Config.resetHigh : Word

/-- Free value: what the Bus Driver answers to a request when nothing in the state fixes it (20_memory.md R44, D24). It
may depend on the transfers of every earlier session, on those of this one, and on the request, so two reads of one
address may differ (R38) and an answer after a reset need not be the one the same transfers got before it (V4). DESIGN
CHOICE (log 24). -/
opaque Config.busAnswer : List (List Transfer) → List Transfer → BusReq → BusAnswer

end Sys2Proof
end

