-- ==== Sys2Proof/Syntax.lean ====
section
/-! DEFINITION. Commands and instructions: the triple a host sends, the seven opcode names, and one constructor of
`Instr` for each row of the opcode table (30_encoding.md R50 to R53). -/

namespace Sys2Proof

/-- One command as it stands at the command port (10_state.md R21). -/
structure Cmd where
  opcode   : Byte
  operand  : Word
  miscdata : Word
  deriving DecidableEq, Repr

/-- The seven opcode names (30_encoding.md R52, R53). -/
inductive Opcode where
  | genSetAddr
  | genRomRd
  | genSetBank
  | genWrLo
  | genWrHi
  | genFlashWrAddroff
  | genSstFlashWrAddroff
  deriving DecidableEq, Repr

/-- A decoded command. Both 16-bit fields are kept whole, also where a row gives one as a don't-care (30_encoding.md
R56) or checks it only after decode (R57), so that no bit of a command is lost. -/
inductive Instr where
  | genSetAddr (operand miscdata : Word)
  | genRomRd (operand miscdata : Word)
  | genSetBank (operand miscdata : Word)
  | genWrLo (operand miscdata : Word)
  | genWrHi (operand miscdata : Word)
  | genFlashWrAddroff (operand miscdata : Word)
  | genSstFlashWrAddroff (operand miscdata : Word)
  deriving DecidableEq, Repr

/-- The opcode name of an instruction. -/
def Instr.op : Instr → Opcode
  | .genSetAddr _ _ => .genSetAddr
  | .genRomRd _ _ => .genRomRd
  | .genSetBank _ _ => .genSetBank
  | .genWrLo _ _ => .genWrLo
  | .genWrHi _ _ => .genWrHi
  | .genFlashWrAddroff _ _ => .genFlashWrAddroff
  | .genSstFlashWrAddroff _ _ => .genSstFlashWrAddroff

/-- The operand field of an instruction. -/
def Instr.operand : Instr → Word
  | .genSetAddr o _ => o
  | .genRomRd o _ => o
  | .genSetBank o _ => o
  | .genWrLo o _ => o
  | .genWrHi o _ => o
  | .genFlashWrAddroff o _ => o
  | .genSstFlashWrAddroff o _ => o

/-- The miscdata field of an instruction. -/
def Instr.miscdata : Instr → Word
  | .genSetAddr _ m => m
  | .genRomRd _ m => m
  | .genSetBank _ m => m
  | .genWrLo _ m => m
  | .genWrHi _ m => m
  | .genFlashWrAddroff _ m => m
  | .genSstFlashWrAddroff _ m => m

/-- The data opcodes are those that make a bus request: 1, 3, 4, 5, 6 (00_scope.md R9). -/
def Opcode.isData : Opcode → Bool
  | .genSetAddr => false
  | .genRomRd => true
  | .genSetBank => false
  | .genWrLo => true
  | .genWrHi => true
  | .genFlashWrAddroff => true
  | .genSstFlashWrAddroff => true

end Sys2Proof
end

