-- ==== Sys2Proof/Machine/State.lean ====
section
/-! DEFINITION. The state of the machine, its stops, and the state after reset (10_state.md). -/

namespace Sys2Proof.Machine

/-- The reference cartridge's contents: cells of one lane byte each, keyed by twice the word address, plus one for the
high lane (Machine/Memory.lean). Keys rise strictly and no listed byte equals what an unlisted key reads as. -/
abbrev Memory := List Host.Cell

/-- GENDEC itself between two commands: the machine state in the sense of R25. It holds no configuration, no command of
the host, no answer of the Bus Driver and no reset value; `perform` and `cycle` (Machine/Cycle.lean) take those as
arguments. -/
structure Gendec where
  /-- `LOW`: `low[i]` is line A(i+1) (R10). -/
  low         : Word
  /-- `HIGH`: bank in bits 6..0, the two flags and seven unassigned bits above (R11, R12). -/
  high        : Word
  /-- `BUSY`: a command is taken and its response not yet given (R26). -/
  busy        : Bool
  /-- The bus request in progress, if any (R23, R28). -/
  inFlight    : Option BusReq
  /-- Ghost: a write of `LOW` has succeeded since reset (R27). -/
  lowWritten  : Bool
  /-- Ghost: a write of `HIGH` has succeeded since reset (R27). -/
  highWritten : Bool
  deriving DecidableEq, Repr

/-- What stands around GENDEC and is no state of it: the inputs of R25 and the records of outputs of R45 and R171. -/
structure Outside where
  /-- The index of the next command in the session, a position in the input (R18, R81). -/
  k         : Nat
  /-- Input: commands offered and not yet taken, in arrival order (R21, R39). -/
  pending   : List Cmd
  /-- Input: answers of the Bus Driver fixed in advance, one per request (R44). -/
  answers   : List BusAnswer
  /-- Input: the reference cartridge answers when `answers` is used up (R46). -/
  refCart   : Bool
  /-- The reference cartridge's contents (R46). -/
  mem       : Memory
  /-- Record: every request of this session with its answer, oldest first (R45). -/
  history   : List Transfer
  /-- Record: the histories of earlier sessions, oldest first, which the Bus Driver's free answers may depend on. The
  model's own field, DESIGN CHOICE (log 24). -/
  earlier   : List (List Transfer)
  /-- Record: every response, oldest first (R22, R171). -/
  responses : List Response
  deriving DecidableEq, Repr

/-- GENDEC with what surrounds it. The two halves are kept apart, as R25 asks: `step` reads its inputs from the second
half and gives them as arguments to meanings that see the first half alone. They stand in one type because a step is a
function of this type alone (DESIGN CHOICE, log 1). -/
structure State extends Gendec, Outside where
  deriving DecidableEq, Repr

/-- What one command gives (R70): GENDEC after it, the one response, and the request with its answer if one was made. -/
structure Done where
  gendec   : Gendec
  response : Response
  transfer : Option Transfer
  deriving DecidableEq, Repr

/-- The machine never stops with a fault, so this type is empty: every status of the spec is an answer after which the
session goes on ("none are fatal to the session", R143), and every address is issued as asked (R32). -/
inductive Fault where
  deriving DecidableEq, Repr

/-- Why a step can be refused. -/
inductive Refusal where
  /-- Raised by `exec` for an instruction that has no meaning in this model yet (safe). No arm of `exec` raises it. -/
  | notModelled (mnemonic : String)
  deriving DecidableEq, Repr

/-- GENDEC after reset, for one draw of the two registers (R28, R160): `BUSY` is 0 and no request is in progress. -/
def Gendec.resetWith (low high : Word) : Gendec where
  low := low
  high := high
  busy := false
  inFlight := none
  lowWritten := false
  highWritten := false

/-- The surroundings with nothing placed: no command has arrived, no response is pending (R160). -/
def Outside.start : Outside where
  k := 0
  pending := []
  answers := []
  refCart := false
  mem := []
  history := []
  earlier := []
  responses := []

/-- A state after reset for one draw of the two registers. -/
def State.resetWith (low high : Word) : State where
  toGendec := Gendec.resetWith low high
  toOutside := Outside.start

/-- The machine right after reset. `LOW` and `HIGH` are unspecified (R28): DESIGN CHOICE (log 18), the free values
`Config.resetLow` and `Config.resetHigh`. -/
def State.reset : State := State.resetWith Config.resetLow Config.resetHigh

end Sys2Proof.Machine
end

