-- ==== Sys2Proof/Machine/Flags.lean ====
section
/-! DEFINITION. The flags, the strobes, the status codes and the transport's form of a response. GENDEC has no condition
codes (R19): its only flags are the two control lines held in HIGH (R12, R13). -/

namespace Sys2Proof.Machine

/-! ### Line levels -/

/-- `FLAG_LEVEL`: the line's level equals the stored bit, 1 is high (R12). DESIGN CHOICE of the spec, D6 (log 7). -/
def levelOfBit (b : Bool) : Level := if b then .high else .low

/-- `LO_MEM_BIT`, a position in 7..15 (R12). -/
def loMemBit (f : FlagPositions) : Nat := 7 + f.loMem.val

/-- `TIME_BIT`, a position in 7..15 other than `LO_MEM_BIT` (R12): the positions other than `LO_MEM_BIT`, in rising
order, are counted by `f.time`. -/
def timeBit (f : FlagPositions) : Nat :=
  7 + (if f.time.val < f.loMem.val then f.time.val else f.time.val + 1)

/-- The level of `#LO_MEM` that a value of HIGH gives. -/
def loMemLevel (f : FlagPositions) (high : Word) : Level := levelOfBit (high.getLsbD (loMemBit f))

/-- The level of `#TIME` that a value of HIGH gives. -/
def timeLevel (f : FlagPositions) (high : Word) : Level := levelOfBit (high.getLsbD (timeBit f))

/-! ### Strobes (R77) -/

/-- All four strobes high: the levels outside a request. -/
def strobesIdle : Strobes := ⟨.high, .high, .high, .high⟩

/-- "assert `#CE`/`#OE` low". -/
def strobesRead : Strobes := ⟨.low, .low, .high, .high⟩

/-- "assert `#CE`/`#OE`/`#LDSW` low". -/
def strobesWriteLow : Strobes := ⟨.low, .low, .low, .high⟩

/-- "assert `#CE`/`#OE`/`#UDSW` low": GEN_WR_HI and both flash opcodes. Transcribed as the source has it (log 19). -/
def strobesWriteHigh : Strobes := ⟨.low, .low, .high, .low⟩

/-- The strobe levels now: those of the request in progress, all high outside a request. -/
def Gendec.strobeLevels (g : Gendec) : Strobes :=
  match g.inFlight with
  | none => strobesIdle
  | some r => r.strobes

/-- `cmd_ready`: low while BUSY is set (R26). -/
def Gendec.cmdReady (g : Gendec) : Bool := !g.busy

/-! ### Statuses for the transport -/

/-- `STATUS_CODE` (R136). DESIGN CHOICE of the spec, D16 (log 15). -/
def statusCode : Status → Nat
  | .ok => 0
  | .unsupportedOpcode => 1
  | .operandOutOfRange => 2
  | .busFault => 3
  | .transportFault => 4

/-- `RdBytes`: the two bytes of a read word, first byte sent first (R35). -/
def rdBytes (order : RdOrder) (w : Word) : List Byte :=
  match order with
  | .little => [w.extractLsb' 0 8, w.extractLsb' 8 8]
  | .big => [w.extractLsb' 8 8, w.extractLsb' 0 8]

/-- A response as the transport sends it: the status number and the bytes of the word, if there is one (R74). -/
def toTransport (order : RdOrder) (r : Response) : Nat × List Byte :=
  (statusCode r.status, match r.data with
    | none => []
    | some w => rdBytes order w)

end Sys2Proof.Machine
end

