-- ==== Sys2Proof/Machine/Operands.lean ====
section
/-! DEFINITION. How the fields of a command and the two registers become address lines, data lines and range checks
(30_encoding.md R57 to R59, 40_dispatch.md R75, R76, 43_flash_write.md R120). Nothing is sign-extended, scaled or
shifted, but for the byte of GEN_WR_HI, which moves to the high lane. -/

namespace Sys2Proof.Machine

/-- The parameters in use: the OPEN ones are free values, `RANGE_POLICY = reject` (D13, log 12) and
`MISC_HIGH_MUX = off` (D22, log 22) are the spec's choices. Every meaning takes the parameters as an argument, so the
other values are covered too. -/
def params : Params where
  flags := Config.flagPositions
  rangePolicy := .reject
  rdOrder := Config.rdOrder
  miscHighMux := .off

/-- What the transport has been given so far, in order: each response as its status number and the bytes of its word
(R74, R35). -/
def Outside.sent (p : Params) (e : Outside) : List (Nat × List Byte) := e.responses.map (toTransport p.rdOrder)

/-! ### Addresses -/

/-- The bank, `HIGH[6:0]`: lines A23..A17 (R12). -/
def bankOf (high : Word) : BitVec 7 := high.extractLsb' 0 7

/-- `current_address()`: `CA = 0b0 : HIGH[6:0] : LOW`, in units of one word (R14). A pure read. -/
def Gendec.currentAddress (g : Gendec) : BitVec 24 := (0#1 ++ bankOf g.high) ++ g.low

/-- Absolute within the current bank: `HIGH[6:0] : operand` (R75, R83). -/
def bankAddr (high operand : Word) : WordAddr := bankOf high ++ operand

/-- The flash opcodes' `EA = ((HIGH[6:0] : LOW) + zext_23(miscdata)) mod 2^23` (R120). The carry out of bit 22 is
discarded. -/
def effectiveAddr (high low miscdata : Word) : WordAddr := bankAddr high low + miscdata.setWidth 23

/-! ### Data lanes (R76) -/

/-- A read: the cartridge drives the data lines. -/
def lanesRead : Lanes := ⟨none, none⟩

/-- GEN_WR_LO: `miscdata[7:0]` on D7..D0, the high lane not driven. -/
def lanesLow (miscdata : Word) : Lanes := ⟨some (miscdata.extractLsb' 0 8), none⟩

/-- GEN_WR_HI: `miscdata[7:0]` on D15..D8, the low lane not driven. -/
def lanesHigh (miscdata : Word) : Lanes := ⟨none, some (miscdata.extractLsb' 0 8)⟩

/-- The flash opcodes: the operand on D15..D0. -/
def lanesWord (operand : Word) : Lanes := ⟨some (operand.extractLsb' 0 8), some (operand.extractLsb' 8 8)⟩

/-! ### The range check -/

/-- The range stage for one field of declared width `w`: under `truncate` it always passes (R57, R58). -/
def fieldInRange (p : Params) (w : Nat) (v : Word) : Bool :=
  match p.rangePolicy with
  | .reject => decide (v >>> w = 0)
  | .truncate => true

/-! ### Requests (R100 to R102, R121, R122) -/

/-- The request of GEN_ROM_RD. -/
def romRdReq (p : Params) (operand : Word) (g : Gendec) : BusReq where
  kind := .romRd
  addr := bankAddr g.high operand
  nLoMem := loMemLevel p.flags g.high
  nTime := timeLevel p.flags g.high
  strobes := strobesRead
  wdata := lanesRead
  wmask := 0b00#2

/-- The request of GEN_WR_LO. -/
def wrLoReq (p : Params) (operand miscdata : Word) (g : Gendec) : BusReq where
  kind := .wrLo
  addr := bankAddr g.high operand
  nLoMem := loMemLevel p.flags g.high
  nTime := timeLevel p.flags g.high
  strobes := strobesWriteLow
  wdata := lanesLow miscdata
  wmask := 0b01#2

/-- The request of GEN_WR_HI. -/
def wrHiReq (p : Params) (operand miscdata : Word) (g : Gendec) : BusReq where
  kind := .wrHi
  addr := bankAddr g.high operand
  nLoMem := loMemLevel p.flags g.high
  nTime := timeLevel p.flags g.high
  strobes := strobesWriteHigh
  wdata := lanesHigh miscdata
  wmask := 0b10#2

/-- The request of GEN_FLASH_WR_ADDROFF. -/
def flashWrReq (p : Params) (operand miscdata : Word) (g : Gendec) : BusReq where
  kind := .flashWr
  addr := effectiveAddr g.high g.low miscdata
  nLoMem := loMemLevel p.flags g.high
  nTime := timeLevel p.flags g.high
  strobes := strobesWriteHigh
  wdata := lanesWord operand
  wmask := 0b11#2

/-- The request of GEN_SST_FLASH_WR_ADDROFF: as opcode 5 but for its kind (R122). -/
def sstFlashWrReq (p : Params) (operand miscdata : Word) (g : Gendec) : BusReq where
  kind := .sstFlashWr
  addr := effectiveAddr g.high g.low miscdata
  nLoMem := loMemLevel p.flags g.high
  nTime := timeLevel p.flags g.high
  strobes := strobesWriteHigh
  wdata := lanesWord operand
  wmask := 0b11#2

end Sys2Proof.Machine
end

