-- ==== Sys2Proof/Machine/Memory.lean ====
section
/-! DEFINITION. The contents of the reference cartridge as a canonical list of lane bytes (20_memory.md R30, R46). The
smallest unit GENDEC can write is one lane of a word, so a cell is one lane. -/

namespace Sys2Proof.Machine

/-- The two lanes of a word: D7..D0 and D15..D8 (R30, R34). -/
inductive Lane where
  | low
  | high
  deriving DecidableEq, Repr

/-- The key of a lane: twice the word address, plus one for the high lane. A naming of cells; it says nothing about which
lane is the byte at an even byte address, which the spec leaves open (R34). DESIGN CHOICE (log 25). -/
def laneKey (a : WordAddr) (lane : Lane) : Nat :=
  match lane with
  | .low => 2 * a.toNat
  | .high => 2 * a.toNat + 1

/-- What a lane that is not listed reads as. DESIGN CHOICE (log 25): the convention of 95_test_vectors.md. -/
def Memory.unlisted : Byte := 0x00#8

/-- The byte at a key. -/
def Memory.read : Memory → Nat → Byte
  | [], _ => Memory.unlisted
  | (k, b) :: m, a => if a = k then b else Memory.read m a

/-- Write a byte at a key, keeping the canonical form: writing the unlisted byte removes the entry. -/
def Memory.write : Memory → Nat → Byte → Memory
  | [], a, v => if v = Memory.unlisted then [] else [(a, v)]
  | (k, b) :: m, a, v =>
    if a < k then
      if v = Memory.unlisted then (k, b) :: m else (a, v) :: (k, b) :: m
    else if a = k then
      if v = Memory.unlisted then m else (a, v) :: m
    else (k, b) :: Memory.write m a v

/-- Keys at least `lo`, below 2^24 and strictly rising, no entry equal to the unlisted byte. -/
def Memory.wfFrom (lo : Nat) : Memory → Bool
  | [] => true
  | (k, b) :: m => decide (lo ≤ k) && decide (k < 2 ^ 24) && decide (b ≠ Memory.unlisted) && Memory.wfFrom (k + 1) m

/-- The canonical form of a memory. -/
def Memory.wf (m : Memory) : Bool := Memory.wfFrom 0 m

/-- The word at a word address: high lane above low lane. -/
def Memory.readWord (m : Memory) (a : WordAddr) : Word :=
  Memory.read m (laneKey a .high) ++ Memory.read m (laneKey a .low)

/-- Write one lane; a lane that is not driven writes nothing (R76, V2). -/
def Memory.writeLane (m : Memory) (a : WordAddr) (lane : Lane) (b : Option Byte) : Memory :=
  match b with
  | none => m
  | some v => Memory.write m (laneKey a lane) v

end Sys2Proof.Machine
end

