-- ==== Sys2Proof/Machine/RefCart.lean ====
section
/-! DEFINITION. The reference cartridge `RefCart` of 20_memory.md R46: the spec's deterministic oracle for tests and
simulation, a word RAM that ignores the flags and the strobes and never fails. It is not part of GENDEC. -/

namespace Sys2Proof.Machine

/-- What `RefCart` answers. -/
def refCartAnswer (m : Memory) (req : BusReq) : BusAnswer :=
  match req.kind with
  | .romRd => ⟨true, Memory.readWord m req.addr⟩
  | .wrLo => ⟨true, 0x0000#16⟩
  | .wrHi => ⟨true, 0x0000#16⟩
  | .flashWr => ⟨true, 0x0000#16⟩
  | .sstFlashWr => ⟨true, 0x0000#16⟩

/-- What `RefCart` holds after the request. -/
def refCartAfter (m : Memory) (req : BusReq) : Memory :=
  match req.kind with
  | .romRd => m
  | .wrLo => Memory.writeLane m req.addr .low req.wdata.low
  | .wrHi => Memory.writeLane m req.addr .high req.wdata.high
  | .flashWr => Memory.writeLane (Memory.writeLane m req.addr .low req.wdata.low) req.addr .high req.wdata.high
  | .sstFlashWr => Memory.writeLane (Memory.writeLane m req.addr .low req.wdata.low) req.addr .high req.wdata.high

end Sys2Proof.Machine
end

