-- ==== Sys2Proof/Machine/Ops.lean ====
section
/-! DEFINITION. The named operations every command is made of. On GENDEC alone: taking a command, writing the two
registers, one bus transfer, giving a response, raising a status. Around it: what answers a request, what a finished
command leaves, and reset (40_dispatch.md R71 to R78, 60_exceptions.md R141). -/

namespace Sys2Proof.Machine

/-! ### Registers -/

/-- `set_low_address`: load `LOW`, all 16 bits (R10, R90). -/
def Gendec.setLow (v : Word) (g : Gendec) : Gendec := { g with low := v, lowWritten := true }

/-- `set_bank`: load `HIGH`, all 16 bits, verbatim (R11, R91). -/
def Gendec.setHigh (v : Word) (g : Gendec) : Gendec := { g with high := v, highWritten := true }

/-- Load `HIGH[6:0]` alone, for `MISC_HIGH_MUX = on` (R92). The flags keep their values, so the ghost bit does too
(DESIGN CHOICE, log 30). -/
def Gendec.setBankBits (b : BitVec 7) (g : Gendec) : Gendec := { g with high := g.high.extractLsb' 7 9 ++ b }

/-! ### Taking and ending a command -/

/-- A command is taken: `BUSY` is set (R26). -/
def Gendec.take (g : Gendec) : Gendec := { g with busy := true }

/-- Hand a request to the Bus Driver: it is now in progress (R23). -/
def Gendec.issue (req : BusReq) (g : Gendec) : Gendec := { g with inFlight := some req }

/-- The command is over: `BUSY` is cleared and no request is in progress any more (R26, R80). -/
def Gendec.release (g : Gendec) : Gendec := { g with busy := false, inFlight := none }

/-- `respond`: end the command with its one response (R8, R74). `made` is the transfer made on the way, if any. -/
def Gendec.respond (status : Status) (data : Option Word) (made : Option Transfer) (g : Gendec) : Done :=
  ⟨g.release, ⟨status, data⟩, made⟩

/-- `raise`: the whole of taking an exception (R141). The response carries the status and no data; `LOW` and `HIGH` are
what they were; nothing is saved, no mode or mask exists, control goes nowhere. The return beside it is empty: nothing
was entered (R143). -/
def Gendec.raise (status : Status) (made : Option Transfer) (g : Gendec) : Done := g.respond status none made

/-! ### The stages of R71 -/

/-- Stage 2: a command out of range ends before any request. -/
def Gendec.inRangeThen (inRange : Bool) (run : Gendec → Done) (g : Gendec) : Done :=
  if inRange then run g else g.raise .operandOutOfRange none

/-- Stages 4 to 6 of a data opcode: one transfer, answered by the oracle `bus` (R44); then commit and an OK response if it
succeeded, else `BusFault` with the registers as they were (R78, R139). `data` says what an OK response carries. -/
def Gendec.access (req : BusReq) (commit : Gendec → Gendec) (data : BusAnswer → Option Word) (bus : BusReq → BusAnswer)
    (g : Gendec) : Done :=
  if (bus req).ok then (commit (g.issue req)).respond .ok (data (bus req)) (some ⟨req, bus req⟩)
  else (g.issue req).raise .busFault (some ⟨req, bus req⟩)

/-- Stages 5 and 6 of an address-setting opcode: no request, always OK. -/
def Gendec.settle (commit : Gendec → Gendec) (g : Gendec) : Done := (commit g).respond .ok none none

/-! ### Around GENDEC -/

/-- The oracle of R44 that the surroundings supply: an answer fixed in advance if there is one; else the reference
cartridge's if it is plugged in; else free, whatever earlier sessions and this one have done (DESIGN CHOICE, log 24). -/
def Outside.busAnswer (e : Outside) (req : BusReq) : BusAnswer :=
  match e.answers with
  | a :: _ => a
  | [] => if e.refCart then refCartAnswer e.mem req else Config.busAnswer e.earlier e.history req

/-- What a transfer leaves: the history gains the request and its answer, whatever the answer is (R45); an answer fixed in
advance is used up; the reference cartridge changes if it was the one to answer. -/
def Outside.collect (x : Transfer) (e : Outside) : Outside :=
  { e with
    answers := e.answers.tail
    mem := if e.answers.isEmpty && e.refCart then refCartAfter e.mem x.req else e.mem
    history := e.history ++ [x] }

/-- A response is given: it is recorded, and the command index moves by one, whatever the status (R74, R81). -/
def Outside.deliver (r : Response) (e : Outside) : Outside :=
  { e with k := e.k + 1, responses := e.responses ++ [r] }

/-- What the surroundings are after a command that made this transfer, if any, and gave this response. -/
def Outside.after (made : Option Transfer) (r : Response) (e : Outside) : Outside :=
  match made with
  | none => e.deliver r
  | some x => (e.collect x).deliver r

/-- A finished command takes its place: GENDEC after it, and the surroundings after it. -/
def State.record (d : Done) (s : State) : State where
  toGendec := d.gendec
  toOutside := s.toOutside.after d.transfer d.response

/-- Run a meaning: it sees GENDEC alone, and the oracle the surroundings supply. -/
def State.serve (meaning : (BusReq → BusAnswer) → Gendec → Done) (s : State) : State :=
  s.record (meaning s.busAnswer s.toGendec)

/-! ### Reset -/

/-- The reset input between two commands (R160, R161): the session's registers are drawn anew and its records start over;
no request is made and the cartridge is not touched. DESIGN CHOICE (log 28), the spec being silent: commands of the old
session that were not taken are gone with it, and answers fixed in advance and not used up stand. The Bus Driver's free
answers are left open across a reset: the old session's history joins `earlier`, so an answer after it need not be what the
same transfers got before it. -/
def State.rst (low high : Word) (s : State) : State where
  toGendec := Gendec.resetWith low high
  toOutside :=
    { Outside.start with
      answers := s.answers, refCart := s.refCart, mem := s.mem, earlier := s.earlier ++ [s.history] }

end Sys2Proof.Machine
end

