-- ==== Sys2Proof/Machine/AddressSetting.lean ====
section
/-! DEFINITION. GEN_SET_ADDR and GEN_SET_BANK (41_address_setting.md): pure state writes, no bus request. -/

namespace Sys2Proof.Machine

/-- GEN_SET_ADDR (R90; R92 for `MISC_HIGH_MUX = on`): `LOW <- operand`, always OK; under `on` also
`HIGH[6:0] <- miscdata[6:0]`, with a declared miscdata width of 7. -/
def setAddr (p : Params) (operand miscdata : Word) (g : Gendec) : Done :=
  match p.miscHighMux with
  | .off => g.settle (Gendec.setLow operand)
  | .on =>
    g.inRangeThen (fieldInRange p 7 miscdata)
      (Gendec.settle fun h => (h.setLow operand).setBankBits (miscdata.extractLsb' 0 7))

/-- GEN_SET_BANK (R91): `HIGH <- operand`, all 16 bits; miscdata is a don't-care. -/
def setBank (operand : Word) (g : Gendec) : Done := g.settle (Gendec.setHigh operand)

/-- The meaning of GEN_SET_ADDR. -/
def execGenSetAddr (operand miscdata : Word) (s : State) : Host.Outcome State Fault Refusal :=
  .next (s.serve fun _ => setAddr params operand miscdata)

/-- The meaning of GEN_SET_BANK. -/
def execGenSetBank (operand : Word) (s : State) : Host.Outcome State Fault Refusal :=
  .next (s.serve fun _ => setBank operand)

end Sys2Proof.Machine
end

