-- ==== Sys2Proof/Machine/BusAccess.lean ====
section
/-! DEFINITION. GEN_ROM_RD, GEN_WR_LO and GEN_WR_HI (42_bus_access.md): one request at `HIGH[6:0] : operand`; `LOW`
takes the operand only if the request succeeds. -/

namespace Sys2Proof.Machine

/-- GEN_ROM_RD (R100): read one word; the response carries it. miscdata is a don't-care. -/
def romRd (p : Params) (operand : Word) (bus : BusReq → BusAnswer) (g : Gendec) : Done :=
  g.access (romRdReq p operand g) (Gendec.setLow operand) (fun a => some a.rdata) bus

/-- GEN_WR_LO (R101): write the low lane. -/
def wrLo (p : Params) (operand miscdata : Word) (bus : BusReq → BusAnswer) (g : Gendec) : Done :=
  g.inRangeThen (fieldInRange p 8 miscdata)
    (Gendec.access (wrLoReq p operand miscdata g) (Gendec.setLow operand) (fun _ => none) bus)

/-- GEN_WR_HI (R102): write the high lane. -/
def wrHi (p : Params) (operand miscdata : Word) (bus : BusReq → BusAnswer) (g : Gendec) : Done :=
  g.inRangeThen (fieldInRange p 8 miscdata)
    (Gendec.access (wrHiReq p operand miscdata g) (Gendec.setLow operand) (fun _ => none) bus)

/-- The meaning of GEN_ROM_RD. -/
def execGenRomRd (operand : Word) (s : State) : Host.Outcome State Fault Refusal :=
  .next (s.serve (romRd params operand))

/-- The meaning of GEN_WR_LO. -/
def execGenWrLo (operand miscdata : Word) (s : State) : Host.Outcome State Fault Refusal :=
  .next (s.serve (wrLo params operand miscdata))

/-- The meaning of GEN_WR_HI. -/
def execGenWrHi (operand miscdata : Word) (s : State) : Host.Outcome State Fault Refusal :=
  .next (s.serve (wrHi params operand miscdata))

end Sys2Proof.Machine
end

