-- ==== Sys2Proof/Machine/FlashWrite.lean ====
section
/-! DEFINITION. GEN_FLASH_WR_ADDROFF and GEN_SST_FLASH_WR_ADDROFF (43_flash_write.md): one word write at `EA`; neither
register changes, on success or on failure (R123). -/

namespace Sys2Proof.Machine

/-- GEN_FLASH_WR_ADDROFF (R121). -/
def flashWr (p : Params) (operand miscdata : Word) (bus : BusReq → BusAnswer) (g : Gendec) : Done :=
  g.access (flashWrReq p operand miscdata g) id (fun _ => none) bus

/-- GEN_SST_FLASH_WR_ADDROFF (R122): in GENDEC it differs from opcode 5 only in the request's kind. -/
def sstFlashWr (p : Params) (operand miscdata : Word) (bus : BusReq → BusAnswer) (g : Gendec) : Done :=
  g.access (sstFlashWrReq p operand miscdata g) id (fun _ => none) bus

/-- The meaning of GEN_FLASH_WR_ADDROFF. -/
def execGenFlashWrAddroff (operand miscdata : Word) (s : State) : Host.Outcome State Fault Refusal :=
  .next (s.serve (flashWr params operand miscdata))

/-- The meaning of GEN_SST_FLASH_WR_ADDROFF. -/
def execGenSstFlashWrAddroff (operand miscdata : Word) (s : State) : Host.Outcome State Fault Refusal :=
  .next (s.serve (sstFlashWr params operand miscdata))

end Sys2Proof.Machine
end

