-- ==== Sys2Proof/Machine/Dispatch.lean ====
section
/-! DEFINITION. One arm per opcode (40_dispatch.md R71). -/

namespace Sys2Proof.Machine

def exec (i : Instr) (s : State) : Host.Outcome State Fault Refusal :=
  match i with
  | .genSetAddr operand miscdata => Sys2Proof.Machine.execGenSetAddr operand miscdata s
  | .genRomRd operand _ => Sys2Proof.Machine.execGenRomRd operand s
  | .genSetBank operand _ => Sys2Proof.Machine.execGenSetBank operand s
  | .genWrLo operand miscdata => Sys2Proof.Machine.execGenWrLo operand miscdata s
  | .genWrHi operand miscdata => Sys2Proof.Machine.execGenWrHi operand miscdata s
  | .genFlashWrAddroff operand miscdata => Sys2Proof.Machine.execGenFlashWrAddroff operand miscdata s
  | .genSstFlashWrAddroff operand miscdata => Sys2Proof.Machine.execGenSstFlashWrAddroff operand miscdata s

end Sys2Proof.Machine
end

