-- ==== Sys2Proof/Decode.lean ====
section
/-! DEFINITION. The decoder, total on every command and rejecting by name, and after it the encoder and the written form
(30_encoding.md R50 to R55, R60). The opcode map is written once as a match, as R54 has it, and once as the rows of
match and mask, as R52 has it; Laws/ shows that they agree. -/

namespace Sys2Proof

/-! ### The command word -/

/-- The command word `CMD[39:0] = opcode : operand : miscdata` (R51). A notation, not a wire format. -/
def Cmd.word (c : Cmd) : BitVec 40 := c.opcode ++ c.operand ++ c.miscdata

/-- The three fields of a command word (R51). -/
def Cmd.ofWord (w : BitVec 40) : Cmd where
  opcode := w.extractLsb' 32 8
  operand := w.extractLsb' 16 16
  miscdata := w.extractLsb' 0 16

/-! ### Decode -/

/-- The closed opcode map of R54: all eight bits are compared. -/
def decodeOpcode (opcode : Byte) : Option Opcode :=
  match opcode.toNat with
  | 0 => some .genSetAddr
  | 1 => some .genRomRd
  | 2 => some .genSetBank
  | 3 => some .genWrLo
  | 4 => some .genWrHi
  | 5 => some .genFlashWrAddroff
  | 6 => some .genSstFlashWrAddroff
  | _ => none

/-- The instruction of an opcode name and the two fields. -/
def Opcode.instr : Opcode → Word → Word → Instr
  | .genSetAddr, o, m => .genSetAddr o m
  | .genRomRd, o, m => .genRomRd o m
  | .genSetBank, o, m => .genSetBank o m
  | .genWrLo, o, m => .genWrLo o m
  | .genWrHi, o, m => .genWrHi o m
  | .genFlashWrAddroff, o, m => .genFlashWrAddroff o m
  | .genSstFlashWrAddroff, o, m => .genSstFlashWrAddroff o m

/-- Why the decoder gives no instruction. -/
inductive DecodeReject where
  /-- The opcode is one of 7 to 255 (R55). The machine answers the command with status `UnsupportedOpcode` and goes on. -/
  | unsupportedOpcode (opcode : Byte)
  deriving DecidableEq, Repr

/-- The decoder: operand and miscdata take no part in it (R52). -/
def decode (c : Cmd) : Except DecodeReject Instr :=
  match decodeOpcode c.opcode with
  | some op => .ok (op.instr c.operand c.miscdata)
  | none => .error (.unsupportedOpcode c.opcode)

/-! ### Encode -/

/-- The opcode value of a name (R52). -/
def Opcode.number : Opcode → Byte
  | .genSetAddr => 0#8
  | .genRomRd => 1#8
  | .genSetBank => 2#8
  | .genWrLo => 3#8
  | .genWrHi => 4#8
  | .genFlashWrAddroff => 5#8
  | .genSstFlashWrAddroff => 6#8

/-- The command of an instruction. -/
def encode (i : Instr) : Cmd where
  opcode := i.op.number
  operand := i.operand
  miscdata := i.miscdata

/-! ### The opcode table -/

/-- One row of the opcode map of R52: `CMD` belongs to the row when `CMD &&& mask = value`. -/
structure OpcodeRow where
  mnemonic : String
  op       : Opcode
  value    : BitVec 40
  mask     : BitVec 40
  deriving DecidableEq, Repr

/-- The seven rows of R52. -/
def opcodeRows : List OpcodeRow :=
  [ ⟨"GEN_SET_ADDR", .genSetAddr, 0x0000000000#40, 0xFF00000000#40⟩,
    ⟨"GEN_ROM_RD", .genRomRd, 0x0100000000#40, 0xFF00000000#40⟩,
    ⟨"GEN_SET_BANK", .genSetBank, 0x0200000000#40, 0xFF00000000#40⟩,
    ⟨"GEN_WR_LO", .genWrLo, 0x0300000000#40, 0xFF00000000#40⟩,
    ⟨"GEN_WR_HI", .genWrHi, 0x0400000000#40, 0xFF00000000#40⟩,
    ⟨"GEN_FLASH_WR_ADDROFF", .genFlashWrAddroff, 0x0500000000#40, 0xFF00000000#40⟩,
    ⟨"GEN_SST_FLASH_WR_ADDROFF", .genSstFlashWrAddroff, 0x0600000000#40, 0xFF00000000#40⟩ ]

/-- The word belongs to the row. -/
def OpcodeRow.matches (r : OpcodeRow) (w : BitVec 40) : Bool := w &&& r.mask == r.value

/-! ### The opcode table's own bit numbers -/

/-- The command whose `CMD` word has the low `nbits` bits of `w` and zeros above them. The table numbers the bits of a
row as `CMD` does: opcode in 39..32, operand in 31..16, miscdata in 15..0. DEDUCED (log 3). -/
def tableCmd (nbits w : Nat) : Cmd := Cmd.ofWord (BitVec.ofNat 40 (w % 2 ^ nbits))

/-- The instruction the decoder reads from the bits of a table row. -/
def decodeTableWord (nbits w : Nat) : Option Instr :=
  match decode (tableCmd nbits w) with
  | .ok i => some i
  | .error _ => none

/-! ### The written form (R60) -/

/-- One upper-case hexadecimal digit. -/
def hexDigit (n : Nat) : String :=
  match n with
  | 0 => "0" | 1 => "1" | 2 => "2" | 3 => "3" | 4 => "4" | 5 => "5" | 6 => "6" | 7 => "7"
  | 8 => "8" | 9 => "9" | 10 => "A" | 11 => "B" | 12 => "C" | 13 => "D" | 14 => "E" | _ => "F"

/-- A 16-bit number in the form `0x0104`. DESIGN CHOICE (log 33): always four digits. -/
def hexWord (v : Word) : String :=
  "0x" ++ hexDigit (v.toNat / 4096 % 16) ++ hexDigit (v.toNat / 256 % 16)
    ++ hexDigit (v.toNat / 16 % 16) ++ hexDigit (v.toNat % 16)

/-- The form `OP(opcode, operand, miscdata)`, which R60 allows for any command. -/
def Cmd.writtenOp (c : Cmd) : String :=
  "OP(" ++ hexWord (c.opcode.setWidth 16) ++ ", " ++ hexWord c.operand ++ ", " ++ hexWord c.miscdata ++ ")"

/-- The call form of R60 where it can say the whole command: a field not written is sent as 0x0000, so a command with a
nonzero don't-care field is written in the form `OP`. -/
def Instr.written (i : Instr) : String :=
  match i with
  | .genSetAddr o m => if m = 0 then "GEN_SET_ADDR(" ++ hexWord o ++ ")" else (encode i).writtenOp
  | .genRomRd o m => if m = 0 then "GEN_ROM_RD(addr=" ++ hexWord o ++ ")" else (encode i).writtenOp
  | .genSetBank o m => if m = 0 then "GEN_SET_BANK(" ++ hexWord o ++ ")" else (encode i).writtenOp
  | .genWrLo o m => "GEN_WR_LO(addr=" ++ hexWord o ++ ", data=" ++ hexWord m ++ ")"
  | .genWrHi o m => "GEN_WR_HI(addr=" ++ hexWord o ++ ", data=" ++ hexWord m ++ ")"
  | .genFlashWrAddroff o m => "GEN_FLASH_WR_ADDROFF(data=" ++ hexWord o ++ ", offset=" ++ hexWord m ++ ")"
  | .genSstFlashWrAddroff o m => "GEN_SST_FLASH_WR_ADDROFF(data=" ++ hexWord o ++ ", offset=" ++ hexWord m ++ ")"

end Sys2Proof
end

