-- ==== Sys2Proof/Machine/Fetch.lean ====
section
/-! DEFINITION. How GENDEC comes by its next command (R18, R21, R39): nothing is fetched, the command at the head of the
arrival order is taken from the port. And what happens when there is nothing to decode to. -/

namespace Sys2Proof.Machine

/-- What stands at the command port. -/
inductive Offer where
  /-- No command is taken: none is offered, or `BUSY` holds it off (R26). -/
  | nothing
  /-- A command and those behind it. -/
  | command (c : Cmd) (rest : List Cmd)
  deriving DecidableEq, Repr

/-- The command GENDEC takes next: the first to have arrived, while `cmd_ready` is high (R26, R39). -/
def State.offer (s : State) : Offer :=
  if s.busy then .nothing
  else
    match s.pending with
    | [] => .nothing
    | c :: rest => .command c rest

/-- Take the command at the port: `BUSY` is set and the commands behind it are offered next (R21, R26). -/
def State.take (rest : List Cmd) (s : State) : State where
  toGendec := s.toGendec.take
  toOutside := { s.toOutside with pending := rest }

/-- No command is taken: nothing changes, for nothing but a command changes anything (R15, R145). DESIGN CHOICE (log 29)
for a session whose commands are all answered; log 21 for `BUSY`. -/
def idle (s : State) : Host.Outcome State Fault Refusal := .next s

/-- An illegal opcode: status `UnsupportedOpcode`, no request, nothing else changes (R55, R137). -/
def rejectOpcode (s : State) : Host.Outcome State Fault Refusal :=
  .next (s.serve fun _ => Gendec.raise .unsupportedOpcode none)

/-- A command put at the head of the arrival order of an idle GENDEC. -/
def State.offerFirst (c : Cmd) (s : State) : State := { s with busy := false, pending := c :: s.pending }

end Sys2Proof.Machine
end

