-- ==== Sys2Proof/Machine/Step.lean ====
section
/-! DEFINITION. One step: one command from arrival to response (40_dispatch.md R70 to R73). -/

namespace Sys2Proof.Machine

/-- Take the next command, decode it, run it. An opcode outside the closed map is answered, not refused. -/
def step (s : State) : Host.Outcome State Fault Refusal :=
  match s.offer with
  | .nothing => idle s
  | .command c rest =>
    match decode c with
    | .ok i => exec i (s.take rest)
    | .error (.unsupportedOpcode _) => rejectOpcode (s.take rest)

/-- The state with the command of a table word offered first, so that the next step runs it (log 2, log 3). -/
def State.withFetchWord (s : State) (nbits w : Nat) : State := s.offerFirst (tableCmd nbits w)

end Sys2Proof.Machine
end

