-- ==== Sys2Proof/Machine/Cycle.lean ====
section
/-! DEFINITION. GENDEC as the step relation of 10_state.md R25 and 40_dispatch.md R70: the configuration, the command, the
Bus Driver's answers and the reset values are parameters, and the machine state is `Gendec` alone. `exec` and `step` are
this at the inputs that the surroundings in `State` supply. -/

namespace Sys2Proof.Machine

/-- One decoded instruction, under any configuration and any oracle. -/
def perform (p : Params) (i : Instr) (bus : BusReq → BusAnswer) (g : Gendec) : Done :=
  match i with
  | .genSetAddr o m => setAddr p o m g
  | .genRomRd o _ => romRd p o bus g
  | .genSetBank o _ => setBank o g
  | .genWrLo o m => wrLo p o m bus g
  | .genWrHi o m => wrHi p o m bus g
  | .genFlashWrAddroff o m => flashWr p o m bus g
  | .genSstFlashWrAddroff o m => sstFlashWr p o m bus g

/-- `dispatch` (R70): one command, from arrival to response. -/
def cycle (p : Params) (c : Cmd) (bus : BusReq → BusAnswer) (g : Gendec) : Done :=
  match decode c with
  | .ok i => perform p i bus g.take
  | .error (.unsupportedOpcode _) => g.take.raise .unsupportedOpcode none

/-- What a run leaves (R171): the two registers (in `gendec`), the request history and the list of responses. -/
structure Trace where
  gendec    : Gendec
  history   : List Transfer
  responses : List Response
  deriving DecidableEq, Repr

/-- One command of a run. The oracle is asked with the history so far, so two reads may differ (R38, R44). -/
def Trace.advance (p : Params) (bus : List Transfer → BusReq → BusAnswer) (c : Cmd) (t : Trace) : Trace where
  gendec := (cycle p c (bus t.history) t.gendec).gendec
  history := t.history ++ (cycle p c (bus t.history) t.gendec).transfer.toList
  responses := t.responses ++ [(cycle p c (bus t.history) t.gendec).response]

/-- A run (R171): a finite list of commands, in arrival order. -/
def Trace.run (p : Params) (bus : List Transfer → BusReq → BusAnswer) : List Cmd → Trace → Trace
  | [], t => t
  | c :: cs, t => Trace.run p bus cs (t.advance p bus c)

/-- A session from reset, for one draw of the two registers (R28). -/
def session (p : Params) (bus : List Transfer → BusReq → BusAnswer) (low high : Word) (cmds : List Cmd) : Trace :=
  Trace.run p bus cmds ⟨Gendec.resetWith low high, [], []⟩

/-- What a run from this state has left so far. -/
def State.trace (s : State) : Trace := ⟨s.toGendec, s.history, s.responses⟩

end Sys2Proof.Machine
end

