-- ==== Sys2Proof/WellFormed.lean ====
section
/-! DEFINITION. Well-formed instructions: the fields lie within the widths the spec declares for the opcode
(30_encoding.md R57, and R92 for the non-default `MISC_HIGH_MUX = on`). An ill-formed command still decodes and still
gets its step: the machine answers it with a status (Machine/Operands.lean, `fieldInRange`). -/

namespace Sys2Proof

/-- The declared width of miscdata; `none` where the field is a don't-care. Every operand has declared width 16, the
width of the field, so it needs no check. -/
def declaredMiscWidth (mux : MiscHighMux) : Opcode → Option Nat
  | .genSetAddr =>
    match mux with
    | .off => none
    | .on => some 7
  | .genRomRd => none
  | .genSetBank => none
  | .genWrLo => some 8
  | .genWrHi => some 8
  | .genFlashWrAddroff => some 16
  | .genSstFlashWrAddroff => some 16

/-- Every field of `i` is within its declared width. -/
def Instr.wellFormed (mux : MiscHighMux) (i : Instr) : Bool :=
  match declaredMiscWidth mux i.op with
  | none => true
  | some w => decide (i.miscdata.toNat < 2 ^ w)

end Sys2Proof
end

