-- ==== Sys2Proof/Machine/Stages.lean ====
section
/-! DEFINITION. The dispatch step as 40_dispatch.md writes it: the function `dispatch` of R70 in the six stages of R71,
with the three multiplexers of R75 to R77 and the commit table of R78 as tables over the opcode. It is written from those
tables alone, on numbers, and shares no address, data or range computation with the meanings in the family files, which
are written from the opcodes' own rules; an obligation states that the two agree. `step` does not use it. -/

namespace Sys2Proof.Machine.Stages

/-- GENDEC's own two registers, the `S = (LOW, HIGH)` of R70. -/
structure Own where
  low  : Word
  high : Word
  deriving DecidableEq, Repr

/-- What one command gives: the new registers, the response, and the request with its answer if one was made. -/
structure Result where
  own      : Own
  response : Response
  transfer : Option Transfer
  deriving DecidableEq, Repr

/-- Stage 2: `InRange`, over the table of declared widths (R57, R58, R92). -/
def inRange (p : Params) (op : Opcode) (miscdata : Word) : Bool :=
  match p.rangePolicy with
  | .truncate => true
  | .reject =>
    match declaredMiscWidth p.miscHighMux op with
    | none => true
    | some w => decide (miscdata.toNat < 2 ^ w)

/-- The kind of an opcode's request; `none` for an address-setting opcode (R31). -/
def kind : Opcode → Option RequestKind
  | .genSetAddr => none
  | .genRomRd => some .romRd
  | .genSetBank => none
  | .genWrLo => some .wrLo
  | .genWrHi => some .wrHi
  | .genFlashWrAddroff => some .flashWr
  | .genSstFlashWrAddroff => some .sstFlashWr

/-- `CA[22:0]` as a number (R14). -/
def currentNat (S : Own) : Nat := (S.high.toNat % 128) * 65536 + S.low.toNat

/-- The address multiplexer (R75), as a number below 2^23. -/
def addressMux (op : Opcode) (S : Own) (operand miscdata : Word) : Nat :=
  match op with
  | .genSetAddr => 0
  | .genSetBank => 0
  | .genRomRd => (S.high.toNat % 128) * 65536 + operand.toNat
  | .genWrLo => (S.high.toNat % 128) * 65536 + operand.toNat
  | .genWrHi => (S.high.toNat % 128) * 65536 + operand.toNat
  | .genFlashWrAddroff => (currentNat S + miscdata.toNat) % 2 ^ 23
  | .genSstFlashWrAddroff => (currentNat S + miscdata.toNat) % 2 ^ 23

/-- The data multiplexer (R76): the driven lanes as bytes of numbers. -/
def dataMux (op : Opcode) (operand miscdata : Word) : Lanes :=
  match op with
  | .genSetAddr => ⟨none, none⟩
  | .genSetBank => ⟨none, none⟩
  | .genRomRd => ⟨none, none⟩
  | .genWrLo => ⟨some (BitVec.ofNat 8 (miscdata.toNat % 256)), none⟩
  | .genWrHi => ⟨none, some (BitVec.ofNat 8 (miscdata.toNat % 256))⟩
  | .genFlashWrAddroff =>
    ⟨some (BitVec.ofNat 8 (operand.toNat % 256)), some (BitVec.ofNat 8 (operand.toNat / 256))⟩
  | .genSstFlashWrAddroff =>
    ⟨some (BitVec.ofNat 8 (operand.toNat % 256)), some (BitVec.ofNat 8 (operand.toNat / 256))⟩

/-- The lane mask (R76): bit 0 for a driven low lane, bit 1 for a driven high lane. -/
def maskOf (d : Lanes) : BitVec 2 :=
  match d.high, d.low with
  | none, none => 0b00#2
  | none, some _ => 0b01#2
  | some _, none => 0b10#2
  | some _, some _ => 0b11#2

/-- The strobe table (R77), in the order `nCE`, `nOE`, `nLDSW`, `nUDSW`. -/
def strobeMux : Opcode → Strobes
  | .genSetAddr => ⟨.high, .high, .high, .high⟩
  | .genSetBank => ⟨.high, .high, .high, .high⟩
  | .genRomRd => ⟨.low, .low, .high, .high⟩
  | .genWrLo => ⟨.low, .low, .low, .high⟩
  | .genWrHi => ⟨.low, .low, .high, .low⟩
  | .genFlashWrAddroff => ⟨.low, .low, .high, .low⟩
  | .genSstFlashWrAddroff => ⟨.low, .low, .high, .low⟩

/-- Stage 3, the request (R75 to R77); `none` for an address-setting opcode. -/
def request (p : Params) (op : Opcode) (S : Own) (operand miscdata : Word) : Option BusReq :=
  match kind op with
  | none => none
  | some kd =>
    some
      { kind := kd
        addr := BitVec.ofNat 23 (addressMux op S operand miscdata)
        nLoMem := if S.high.toNat.testBit (loMemBit p.flags) then .high else .low
        nTime := if S.high.toNat.testBit (timeBit p.flags) then .high else .low
        strobes := strobeMux op
        wdata := dataMux op operand miscdata
        wmask := maskOf (dataMux op operand miscdata) }

/-- Stage 3, the candidate state (R78; R92 for the row of GEN_SET_ADDR under `MISC_HIGH_MUX = on`). -/
def candidate (p : Params) (op : Opcode) (S : Own) (operand miscdata : Word) : Own :=
  match op with
  | .genSetAddr =>
    { low := operand
      high := match p.miscHighMux with
        | .off => S.high
        | .on => BitVec.ofNat 16 (S.high.toNat / 128 * 128 + miscdata.toNat % 128) }
  | .genRomRd => { S with low := operand }
  | .genWrLo => { S with low := operand }
  | .genWrHi => { S with low := operand }
  | .genSetBank => { S with high := operand }
  | .genFlashWrAddroff => S
  | .genSstFlashWrAddroff => S

/-- Stage 6: the data of an OK response (R74). -/
def okData (op : Opcode) (answer : BusAnswer) : Option Word :=
  if op = .genRomRd then some answer.rdata else none

/-- `dispatch` (R70, R71), with the Bus Driver as a free argument. -/
def dispatch (p : Params) (S : Own) (c : Cmd) (bus : BusReq → BusAnswer) : Result :=
  match decodeOpcode c.opcode with
  | none => ⟨S, ⟨.unsupportedOpcode, none⟩, none⟩
  | some op =>
    if inRange p op c.miscdata then
      match request p op S c.operand c.miscdata with
      | none => ⟨candidate p op S c.operand c.miscdata, ⟨.ok, none⟩, none⟩
      | some req =>
        if (bus req).ok then
          ⟨candidate p op S c.operand c.miscdata, ⟨.ok, okData op (bus req)⟩, some ⟨req, bus req⟩⟩
        else ⟨S, ⟨.busFault, none⟩, some ⟨req, bus req⟩⟩
    else ⟨S, ⟨.operandOutOfRange, none⟩, none⟩

end Sys2Proof.Machine.Stages
end

