-- ==== Sys2Proof/Safety.lean ====
section
/-! DEFINITION. What holds of GENDEC between commands, and what counts as a run whose host does its duty, in the terms the
obligations use. -/

namespace Sys2Proof.Machine

/-! ### The invariant -/

/-- A request has the shape its kind's row gives it: strobes (R77), driven lanes and mask (R76). -/
def reqLegal (r : BusReq) : Bool :=
  match r.kind with
  | .romRd =>
    r.strobes == strobesRead && !r.wdata.low.isSome && !r.wdata.high.isSome && r.wmask == 0b00#2
  | .wrLo =>
    r.strobes == strobesWriteLow && r.wdata.low.isSome && !r.wdata.high.isSome && r.wmask == 0b01#2
  | .wrHi =>
    r.strobes == strobesWriteHigh && !r.wdata.low.isSome && r.wdata.high.isSome && r.wmask == 0b10#2
  | .flashWr =>
    r.strobes == strobesWriteHigh && r.wdata.low.isSome && r.wdata.high.isSome && r.wmask == 0b11#2
  | .sstFlashWr =>
    r.strobes == strobesWriteHigh && r.wdata.low.isSome && r.wdata.high.isSome && r.wmask == 0b11#2

/-- GENDEC gives this response: never `TransportFault` (R140), data only with OK (R74). -/
def responseLegal (r : Response) : Bool :=
  r.status != .transportFault && (r.data.isNone || r.status == .ok)

/-- What holds between two commands: GENDEC is ready and no request is in progress (R26, R80, R160); there is one
response for each command taken (R74, R81) and at most one request for each (R37); every request and response has a shape
the spec gives; the cartridge's memory is canonical. -/
structure State.Inv (s : State) : Prop where
  ready : s.busy = false
  noRequest : s.inFlight = none
  oneResponseEach : s.k = s.responses.length
  oneRequestAtMost : s.history.length ≤ s.responses.length
  requestsLegal : ∀ x ∈ s.history, reqLegal x.req = true
  responsesLegal : ∀ r ∈ s.responses, responseLegal r = true
  memoryCanonical : Memory.wf s.mem = true

/-! ### The host's duty -/

/-- What the host must have sent since reset before an opcode means anything (R163), read off the ghost bits (R27). -/
def dutyFor (op : Opcode) (g : Gendec) : Bool :=
  match op with
  | .genSetAddr => true
  | .genSetBank => true
  | .genRomRd => g.highWritten
  | .genWrLo => g.highWritten
  | .genWrHi => g.highWritten
  | .genFlashWrAddroff => g.highWritten && g.lowWritten
  | .genSstFlashWrAddroff => g.highWritten && g.lowWritten

/-- The command taken next, if any, comes after what R163 asks for. -/
def State.dutyMet (s : State) : Bool :=
  match s.offer with
  | .nothing => true
  | .command c _ =>
    match decodeOpcode c.opcode with
    | none => true
    | some op => dutyFor op s.toGendec

/-- The host does its duty in each of the next `n` steps. -/
def State.DutyMetFor : Nat → State → Prop
  | 0, _ => True
  | n + 1, s => s.dutyMet = true ∧ ∀ t, step s = .next t → State.DutyMetFor n t

/-- The two states differ at most in registers that nothing has written since reset: two draws of one session. -/
def State.SameButUnwritten (s t : State) : Prop :=
  t = { s with low := t.low, high := t.high } ∧
    (s.lowWritten = true → t.low = s.low) ∧ (s.highWritten = true → t.high = s.high)

/-! ### What a value of HIGH drives -/

/-- Two values of HIGH give the same bank lines and the same two flag lines (R12). -/
def sameLines (f : FlagPositions) (h h' : Word) : Prop :=
  bankOf h = bankOf h' ∧ loMemLevel f h = loMemLevel f h' ∧ timeLevel f h = timeLevel f h'

/-- The registers as the `S` of R70. -/
def Gendec.own (g : Gendec) : Stages.Own := ⟨g.low, g.high⟩

/-- The request an instruction makes, by the tables of R57 and R75 to R77: none for an address-setting opcode and none
for a command out of range. -/
def requestOf (p : Params) (i : Instr) (g : Gendec) : Option BusReq :=
  if Stages.inRange p i.op i.miscdata then Stages.request p i.op g.own i.operand i.miscdata else none

/-- The status of the newest response. -/
def Outside.lastStatus (e : Outside) : Option Status := e.responses.getLast?.map (·.status)

/-- A read of the reference cartridge's byte at a key. -/
def Outside.cartByte (e : Outside) (key : Nat) : Byte := Memory.read e.mem key

end Sys2Proof.Machine
end

