-- ==== Sys2Proof/Certificates/Slice0/Obligations.lean ====
section
/-! DEFINITION. The statements about GENDEC, each formalising a rule of spec/ or resting on the sections it names. A
docstring names the spec's decisions (D<n>) and the log entries a statement rests on. Nothing is proved here. -/

open Sys2Proof Sys2Proof.Machine

/-! ### Reset and the step -/

/-- Reset, for every draw of the two registers: GENDEC is ready, nothing is in progress or pending, all four strobes are
high; and `State.reset` is such a state (R28, R160; the draw is decision D19, log 18). -/
def Obligations.ResetIsReadyWhateverTheDraw : Prop :=
  (∀ x y : Word,
    (State.resetWith x y).low = x ∧ (State.resetWith x y).high = y ∧
    (State.resetWith x y).busy = false ∧ (State.resetWith x y).cmdReady = true ∧
    (State.resetWith x y).inFlight = none ∧
    (State.resetWith x y).strobeLevels = ⟨.high, .high, .high, .high⟩ ∧
    (State.resetWith x y).responses = [] ∧ (State.resetWith x y).history = []) ∧
  ∃ x y : Word, State.reset = State.resetWith x y

/-- The invariant holds after reset, whatever the draw (D19, log 18). -/
def Obligations.ResetMeetsTheInvariant : Prop :=
  State.reset.Inv ∧ ∀ x y : Word, (State.resetWith x y).Inv

/-- Every step keeps the invariant: ready and no request between commands, one response for each command and at most one
request, requests and responses of the shapes the spec gives, canonical cartridge memory (the shapes rest on decisions
D13, D14, D20, D23 and D27, logs 12, 13, 19, 23, 27; the memory is the test aid of log 25). -/
def Obligations.StepKeepsTheInvariant : Prop :=
  ∀ s t : State, s.Inv → step s = .next t → t.Inv

/-- A step runs the decoded command: the one at the head of the arrival order, with `BUSY` set and the rest still
offered (the list of offered commands is the model's form of the command port, log 1, log 2; `BUSY` is D21, log 21). -/
def Obligations.StepRunsTheDecodedCommand : Prop :=
  ∀ (s : State) (c : Cmd) (rest : List Cmd) (i : Instr),
    s.busy = false → s.pending = c :: rest → decode c = .ok i →
    step s = exec i { s with busy := true, pending := rest }

/-- A table word put where the step takes its next command is run by the next step (log 2, log 3). -/
def Obligations.TableWordRunsAtTheNextStep : Prop :=
  ∀ (s : State) (i : Instr),
    step (s.withFetchWord 40 (encode i).word.toNat) = exec i { s with busy := true }

/-- An opcode from 7 to 255 is answered with `UnsupportedOpcode`: no request, both registers and all bits of HIGH as they
were, whatever operand and miscdata hold; the next command is the next to have arrived (the field's width of eight bits
is decision D1, log 4). -/
def Obligations.IllegalOpcodeIsAnsweredWithNoEffect : Prop :=
  ∀ (s : State) (c : Cmd) (rest : List Cmd),
    s.busy = false → s.pending = c :: rest → 7 ≤ c.opcode.toNat →
    step s = .next { s with
      busy := false, inFlight := none, pending := rest, k := s.k + 1
      responses := s.responses ++ [⟨.unsupportedOpcode, none⟩] }

/-- With no command at the port, or with `BUSY` set, nothing is taken and nothing changes (log 21, log 29). -/
def Obligations.NothingTakenChangesNothing : Prop :=
  ∀ s : State, s.busy = true ∨ s.pending = [] → step s = .next s

/-- GENDEC always has a step, whatever the Bus Driver answers and whatever the command: no status stops the session (that
the Bus Driver always answers is decision D24, log 24). -/
def Obligations.EveryStateHasANextState : Prop :=
  ∀ s : State, ∃ t, step s = .next t

/-! ### Encoding -/

/-- Decoding the command of an instruction gives the instruction back, and so does decoding its 40-bit word: no bit of
any operand is dropped (the 40-bit packing is decision D2, log 3). -/
def Obligations.DecodeOfEncodeIsTheInstruction : Prop :=
  ∀ i : Instr,
    decode (encode i) = .ok i ∧ Cmd.ofWord (encode i).word = encode i ∧
    decodeTableWord 40 (encode i).word.toNat = some i

/-- A command that decodes is the encoding of what it decodes to, and a command word is the word of its fields (the
40-bit packing is decision D2, log 3). -/
def Obligations.DecodedCommandIsItsEncoding : Prop :=
  (∀ (c : Cmd) (i : Instr), decode c = .ok i → encode i = c) ∧ ∀ w : BitVec 40, (Cmd.ofWord w).word = w

/-- The decoder follows the rows of match and mask: a word decodes to an opcode name exactly when it belongs to that
name's row (the numbers are the spec's provisional ones, log 31). -/
def Obligations.DecoderFollowsTheOpcodeTable : Prop :=
  ∀ (w : BitVec 40) (op : Opcode),
    decodeOpcode (Cmd.ofWord w).opcode = some op ↔ ∃ r ∈ opcodeRows, r.op = op ∧ r.matches w = true

/-- The decoder rejects exactly the opcode values 7 to 255 and names the opcode (the 8-bit width is decision D1, log 4). -/
def Obligations.DecoderRejectsExactlySevenTo255 : Prop :=
  ∀ c : Cmd, decode c = .error (.unsupportedOpcode c.opcode) ↔ 7 ≤ c.opcode.toNat

/-- Words written out in 95_test_vectors.md decode to the commands they stand for there (the packing is D2, log 3; the
numbers are provisional, log 31). -/
def Obligations.WrittenOutWordsDecode : Prop :=
  decode (Cmd.ofWord 0x0020000000#40) = .ok (.genSetAddr 0x2000#16 0x0000#16) ∧
  decode (Cmd.ofWord 0x0101040000#40) = .ok (.genRomRd 0x0104#16 0x0000#16) ∧
  decode (Cmd.ofWord 0x0200010000#40) = .ok (.genSetBank 0x0001#16 0x0000#16) ∧
  decode (Cmd.ofWord 0x03001000AB#40) = .ok (.genWrLo 0x0010#16 0x00AB#16) ∧
  decode (Cmd.ofWord 0x04001000CD#40) = .ok (.genWrHi 0x0010#16 0x00CD#16) ∧
  decode (Cmd.ofWord 0x0512340004#40) = .ok (.genFlashWrAddroff 0x1234#16 0x0004#16) ∧
  decode (Cmd.ofWord 0x06BEEF0002#40) = .ok (.genSstFlashWrAddroff 0xBEEF#16 0x0002#16) ∧
  decode (Cmd.ofWord 0x8101040000#40) = .error (.unsupportedOpcode 0x81#8)

/-! ### Address setting -/

/-- GEN_SET_ADDR: `LOW` takes all 16 bits of the operand, miscdata is ignored, OK, no data; nothing else changes
(`MISC_HIGH_MUX = off` is decision D22, log 22; no request is D26, log 26). -/
def Obligations.SetAddrLoadsLow : Prop :=
  ∀ (a m : Word) (s : State),
    exec (.genSetAddr a m) s = .next { s with
      low := a, lowWritten := true
      busy := false, inFlight := none, k := s.k + 1, responses := s.responses ++ [⟨.ok, none⟩] }

/-- GEN_SET_BANK: `HIGH` takes all 16 bits of the operand verbatim, miscdata is ignored, OK, no data; nothing else
changes (storing all 16 bits is decision D4, log 5; no request is D26, log 26). -/
def Obligations.SetBankLoadsHigh : Prop :=
  ∀ (b m : Word) (s : State),
    exec (.genSetBank b m) s = .next { s with
      high := b, highWritten := true
      busy := false, inFlight := none, k := s.k + 1, responses := s.responses ++ [⟨.ok, none⟩] }

/-- The two address-setting opcodes commute: in either order the same state results, with LOW and HIGH the two operands
and CA their composition; bank 0x01 and low 0x2000 give 0x012000 (the composition is decision D7, log 5). -/
def Obligations.AddressSettersCommute : Prop :=
  ∀ (a b m n : Word) (s : State),
    ∃ s1 s2 t : State,
      exec (.genSetBank b n) s = .next s1 ∧ exec (.genSetAddr a m) s1 = .next t ∧
      exec (.genSetAddr a m) s = .next s2 ∧ exec (.genSetBank b n) s2 = .next t ∧
      t.low = a ∧ t.high = b ∧ t.currentAddress = (0#1 ++ b.extractLsb' 0 7) ++ a ∧
      (a = 0x2000#16 → b = 0x0001#16 → t.currentAddress = 0x012000#24)

/-- What the two opcodes do to the current address and to the flag lines, bit range by bit range (the layout is decisions
D3 to D7, logs 5, 6, 7). -/
def Obligations.CurrentAddressAfterSetting : Prop :=
  (∀ (a m : Word) (s : State), ∃ t, exec (.genSetAddr a m) s = .next t ∧
    t.currentAddress.extractLsb' 0 16 = a ∧
    t.currentAddress.extractLsb' 16 8 = s.currentAddress.extractLsb' 16 8) ∧
  (∀ (b m : Word) (s : State), ∃ t, exec (.genSetBank b m) s = .next t ∧
    t.currentAddress.extractLsb' 16 7 = b.extractLsb' 0 7 ∧
    (loMemLevel params.flags t.high = .high ↔ b.getLsbD (loMemBit params.flags) = true) ∧
    (timeLevel params.flags t.high = .high ↔ b.getLsbD (timeBit params.flags) = true) ∧
    t.currentAddress.extractLsb' 0 16 = s.currentAddress.extractLsb' 0 16)

/-- The composition of CA: bit 23 is 0, bits 22..16 are `HIGH[6:0]`, bits 15..0 are LOW, and as a number in words it is
bank times 2^16 plus LOW (decisions D3, D4, D7, log 5). -/
def Obligations.CurrentAddressIsBankThenLow : Prop :=
  ∀ s : State,
    s.currentAddress.getLsbD 23 = false ∧
    (∀ j, j < 7 → s.currentAddress.getLsbD (16 + j) = s.high.getLsbD j) ∧
    (∀ i, i < 16 → s.currentAddress.getLsbD i = s.low.getLsbD i) ∧
    s.currentAddress.toNat = s.high.toNat % 128 * 65536 + s.low.toNat

/-- GEN_SET_ADDR under the non-default `MISC_HIGH_MUX = on`: `HIGH[6:0]` takes `miscdata[6:0]` and `HIGH[15:7]` stays; a
miscdata above seven bits is rejected under `reject` with no change (decision D22, log 22). -/
def Obligations.SetAddrUnderMiscHighMux : Prop :=
  ∀ (p : Params) (a m : Word) (g : Gendec), p.miscHighMux = .on →
    (p.rangePolicy = .reject → 128 ≤ m.toNat →
      setAddr p a m g = ⟨{ g with busy := false, inFlight := none }, ⟨.operandOutOfRange, none⟩, none⟩) ∧
    (p.rangePolicy = .truncate ∨ m.toNat < 128 →
      (setAddr p a m g).gendec.low = a ∧
      (setAddr p a m g).gendec.high.extractLsb' 0 7 = m.extractLsb' 0 7 ∧
      (setAddr p a m g).gendec.high.extractLsb' 7 9 = g.high.extractLsb' 7 9 ∧
      (setAddr p a m g).response = ⟨.ok, none⟩ ∧ (setAddr p a m g).transfer = none)

/-! ### Bus access -/

/-- GEN_ROM_RD when its request succeeds: one ROM_RD request at `HIGH[6:0] : operand` with the flag lines of HIGH, `#CE`
and `#OE` low, no lane driven; `LOW` takes the operand, the response carries the word (operand on the lines D8, log 8;
strobes D20, log 19). -/
def Obligations.RomRdReadsTheOperandsWord : Prop :=
  ∀ (a m : Word) (s : State) (req : BusReq) (ans : BusAnswer),
    req = { kind := .romRd, addr := s.high.extractLsb' 0 7 ++ a
            nLoMem := loMemLevel params.flags s.high, nTime := timeLevel params.flags s.high
            strobes := ⟨.low, .low, .high, .high⟩, wdata := ⟨none, none⟩, wmask := 0b00#2 } →
    s.busAnswer req = ans → ans.ok = true →
    exec (.genRomRd a m) s = .next { s with
      low := a, lowWritten := true
      busy := false, inFlight := none, k := s.k + 1
      answers := s.answers.tail, history := s.history ++ [⟨req, ans⟩]
      responses := s.responses ++ [⟨.ok, some ans.rdata⟩] }

/-- GEN_WR_LO with a byte in range when its request succeeds: one WR_LO request that drives the low lane alone; `LOW`
takes the operand; of the reference cartridge, where it answers, only the low lane of the addressed word is written (the
declared width is decision D13, log 12; strobes D20, log 19; cartridge D25, log 25). -/
def Obligations.WrLoWritesTheLowLane : Prop :=
  ∀ (a m : Word) (s : State) (req : BusReq) (ans : BusAnswer), m.toNat ≤ 0x00FF →
    req = { kind := .wrLo, addr := s.high.extractLsb' 0 7 ++ a
            nLoMem := loMemLevel params.flags s.high, nTime := timeLevel params.flags s.high
            strobes := ⟨.low, .low, .low, .high⟩
            wdata := ⟨some (m.extractLsb' 0 8), none⟩, wmask := 0b01#2 } →
    s.busAnswer req = ans → ans.ok = true →
    exec (.genWrLo a m) s = .next { s with
      low := a, lowWritten := true
      busy := false, inFlight := none, k := s.k + 1
      answers := s.answers.tail, history := s.history ++ [⟨req, ans⟩]
      responses := s.responses ++ [⟨.ok, none⟩]
      mem := if s.answers = [] ∧ s.refCart = true
        then Memory.write s.mem (laneKey req.addr .low) (m.extractLsb' 0 8) else s.mem }

/-- GEN_WR_HI with a byte in range when its request succeeds: one WR_HI request with `miscdata[7:0]` on the high lane
alone; `LOW` takes the operand; of the reference cartridge only the high lane of the addressed word is written (the
byte's place in miscdata is decision D14, log 13; width D13, log 12; strobes D20, log 19; cartridge D25, log 25). -/
def Obligations.WrHiWritesTheHighLane : Prop :=
  ∀ (a m : Word) (s : State) (req : BusReq) (ans : BusAnswer), m.toNat ≤ 0x00FF →
    req = { kind := .wrHi, addr := s.high.extractLsb' 0 7 ++ a
            nLoMem := loMemLevel params.flags s.high, nTime := timeLevel params.flags s.high
            strobes := ⟨.low, .low, .high, .low⟩
            wdata := ⟨none, some (m.extractLsb' 0 8)⟩, wmask := 0b10#2 } →
    s.busAnswer req = ans → ans.ok = true →
    exec (.genWrHi a m) s = .next { s with
      low := a, lowWritten := true
      busy := false, inFlight := none, k := s.k + 1
      answers := s.answers.tail, history := s.history ++ [⟨req, ans⟩]
      responses := s.responses ++ [⟨.ok, none⟩]
      mem := if s.answers = [] ∧ s.refCart = true
        then Memory.write s.mem (laneKey req.addr .high) (m.extractLsb' 0 8) else s.mem }

/-- A byte write with miscdata above 0x00FF: `OperandOutOfRange`, no request, the operand not stored, nothing else
changed (`RANGE_POLICY = reject` is decision D13, log 12). -/
def Obligations.OverWideByteIsRejected : Prop :=
  ∀ (a m : Word) (s : State) (i : Instr), 0x00FF < m.toNat → i = .genWrLo a m ∨ i = .genWrHi a m →
    exec i s = .next { s with
      busy := false, inFlight := none, k := s.k + 1
      responses := s.responses ++ [⟨.operandOutOfRange, none⟩] }

/-- `OperandOutOfRange` has exactly one cause, a byte write with miscdata above 0x00FF, and under `truncate` it is never
given (decision D13, log 12). -/
def Obligations.OutOfRangeHasOneCause : Prop :=
  (∀ (i : Instr) (s t : State), exec i s = .next t →
    (t.lastStatus = some .operandOutOfRange ↔ (i.op = .genWrLo ∨ i.op = .genWrHi) ∧ 0x00FF < i.miscdata.toNat)) ∧
  ∀ (p : Params) (i : Instr) (bus : BusReq → BusAnswer) (g : Gendec), p.rangePolicy = .truncate →
    (perform p i bus g).response.status ≠ .operandOutOfRange

/-- Under `truncate` a byte write does what it does under `reject` with the high byte of miscdata cleared: the high byte
is ignored and nothing else differs (decision D13, log 12). -/
def Obligations.TruncateIgnoresTheHighByte : Prop :=
  ∀ (p : Params) (a m : Word) (bus : BusReq → BusAnswer) (g : Gendec),
    wrLo { p with rangePolicy := .truncate } a m bus g =
      wrLo { p with rangePolicy := .reject } a (m &&& 0x00FF#16) bus g ∧
    wrHi { p with rangePolicy := .truncate } a m bus g =
      wrHi { p with rangePolicy := .reject } a (m &&& 0x00FF#16) bus g

/-! ### Flash writes and the adder -/

/-- GEN_FLASH_WR_ADDROFF when its request succeeds: one FLASH_WR request of the operand, both lanes, at the current
address plus miscdata modulo 2^23; neither register changes (decisions D10, D11, log 9, log 10; strobes D20, log 19;
cartridge D25, log 25). -/
def Obligations.FlashWrWritesAtTheOffset : Prop :=
  ∀ (d off : Word) (s : State) (req : BusReq) (ans : BusAnswer),
    req = { kind := .flashWr
            addr := BitVec.ofNat 23 ((s.high.toNat % 128 * 65536 + s.low.toNat + off.toNat) % 2 ^ 23)
            nLoMem := loMemLevel params.flags s.high, nTime := timeLevel params.flags s.high
            strobes := ⟨.low, .low, .high, .low⟩
            wdata := ⟨some (d.extractLsb' 0 8), some (d.extractLsb' 8 8)⟩, wmask := 0b11#2 } →
    s.busAnswer req = ans → ans.ok = true →
    exec (.genFlashWrAddroff d off) s = .next { s with
      busy := false, inFlight := none, k := s.k + 1
      answers := s.answers.tail, history := s.history ++ [⟨req, ans⟩]
      responses := s.responses ++ [⟨.ok, none⟩]
      mem := if s.answers = [] ∧ s.refCart = true
        then Memory.write (Memory.write s.mem (laneKey req.addr .low) (d.extractLsb' 0 8))
          (laneKey req.addr .high) (d.extractLsb' 8 8)
        else s.mem }

/-- GEN_SST_FLASH_WR_ADDROFF when its request succeeds: as GEN_FLASH_WR_ADDROFF but for the request's kind (the fields'
roles are decision D12, log 11; sum D11, log 10; cartridge D25, log 25). -/
def Obligations.SstFlashWrWritesAtTheOffset : Prop :=
  ∀ (d off : Word) (s : State) (req : BusReq) (ans : BusAnswer),
    req = { kind := .sstFlashWr
            addr := BitVec.ofNat 23 ((s.high.toNat % 128 * 65536 + s.low.toNat + off.toNat) % 2 ^ 23)
            nLoMem := loMemLevel params.flags s.high, nTime := timeLevel params.flags s.high
            strobes := ⟨.low, .low, .high, .low⟩
            wdata := ⟨some (d.extractLsb' 0 8), some (d.extractLsb' 8 8)⟩, wmask := 0b11#2 } →
    s.busAnswer req = ans → ans.ok = true →
    exec (.genSstFlashWrAddroff d off) s = .next { s with
      busy := false, inFlight := none, k := s.k + 1
      answers := s.answers.tail, history := s.history ++ [⟨req, ans⟩]
      responses := s.responses ++ [⟨.ok, none⟩]
      mem := if s.answers = [] ∧ s.refCart = true
        then Memory.write (Memory.write s.mem (laneKey req.addr .low) (d.extractLsb' 0 8))
          (laneKey req.addr .high) (d.extractLsb' 8 8)
        else s.mem }

/-- The effective address: an unsigned sum in words modulo 2^23; below a 64 Ki-word boundary the bank lines are HIGH's,
past it the carry moves them by one, past the top it wraps to bank 0; HIGH above bit 6 takes no part (decision D11,
log 10). -/
def Obligations.OffsetSumIsUnsignedModulo : Prop :=
  ∀ h l off : Word,
    (effectiveAddr h l off).toNat = (h.toNat % 128 * 65536 + l.toNat + off.toNat) % 2 ^ 23 ∧
    (effectiveAddr h l off).extractLsb' 0 16 = l + off ∧
    (l.toNat + off.toNat < 65536 → (effectiveAddr h l off).extractLsb' 16 7 = h.extractLsb' 0 7) ∧
    (65536 ≤ l.toNat + off.toNat → (effectiveAddr h l off).extractLsb' 16 7 = h.extractLsb' 0 7 + 1#7) ∧
    ∀ h' : Word, h'.toNat % 128 = h.toNat % 128 → effectiveAddr h' l off = effectiveAddr h l off

/-! ### Failure, requests and responses -/

/-- A data opcode in range whose request fails: `BusFault`, no data, both registers as they were, the request in the
history; the registers and the reference cartridge are as before the command (no data is decision D23, log 23; the
cartridge is the test aid of log 25). -/
def Obligations.FailedRequestIsBusFault : Prop :=
  ∀ (i : Instr) (s : State) (req : BusReq), requestOf params i s.toGendec = some req → (s.busAnswer req).ok = false →
    exec i s = .next { s with
      busy := false, inFlight := none, k := s.k + 1
      answers := s.answers.tail, history := s.history ++ [⟨req, s.busAnswer req⟩]
      responses := s.responses ++ [⟨.busFault, none⟩] }

/-- The request history grows by exactly the request the tables give the command, with its answer, and by nothing for an
address-setting opcode or a command out of range (no request for opcodes 0 and 2 is decision D26, log 26; the request's
fields rest on logs 5 to 13 and 19). -/
def Obligations.HistoryGrowsByTheOneRequest : Prop :=
  ∀ (i : Instr) (s t : State), exec i s = .next t →
    t.history = s.history ++ ((requestOf params i s.toGendec).map fun req => ⟨req, s.busAnswer req⟩).toList

/-- The commit rule for every step: LOW takes the operand of GEN_SET_ADDR always and of GEN_ROM_RD, GEN_WR_LO, GEN_WR_HI
when their request was made and succeeded; HIGH takes the operand of GEN_SET_BANK; nothing else writes either. That LOW
takes the operand only on success is decisions D8 and D9 (log 8), that the flash opcodes store nothing D10 (log 9), and
that GEN_SET_ADDR leaves HIGH alone D22 (log 22). -/
def Obligations.OnlyTheListedWritersChangeTheRegisters : Prop :=
  ∀ s t : State, step s = .next t →
    match s.offer with
    | .nothing => t.low = s.low ∧ t.high = s.high
    | .command c _ =>
      match decode c with
      | .error _ => t.low = s.low ∧ t.high = s.high
      | .ok i =>
        (t.low =
          if i.op = .genSetAddr ∨ ((i.op = .genRomRd ∨ i.op = .genWrLo ∨ i.op = .genWrHi) ∧
              ∃ req, requestOf params i s.toGendec = some req ∧ (s.busAnswer req).ok = true)
          then i.operand else s.low) ∧
        t.high = if i.op = .genSetBank then i.operand else s.high

/-- Raising a status: a command that ends in anything but OK leaves every part of the state as it was, but that it is
answered with the status and no data, `BUSY` is clear, the next command is the next to have arrived, and a `BusFault`
leaves the command's own request, with the answer that failed it, in the history (an answer fixed in advance is used up by
it: log 24). That the response carries no data is R141's own text and decision D23 (log 23). -/
def Obligations.RaiseChangesNothingButTheRecord : Prop :=
  ∀ (s t : State) (c : Cmd) (rest : List Cmd) (st : Status),
    s.offer = .command c rest → step s = .next t → t.lastStatus = some st → st ≠ .ok →
    (st ≠ .busFault →
      t = { s with
        busy := false, inFlight := none, pending := rest, k := s.k + 1
        responses := s.responses ++ [⟨st, none⟩] }) ∧
    (st = .busFault →
      ∃ (i : Instr) (req : BusReq), decode c = .ok i ∧ requestOf params i s.toGendec = some req ∧
        (s.busAnswer req).ok = false ∧
        t = { s with
          busy := false, inFlight := none, pending := rest, k := s.k + 1
          responses := s.responses ++ [⟨.busFault, none⟩]
          history := s.history ++ [⟨req, s.busAnswer req⟩], answers := s.answers.tail })

/-- Every command taken gets exactly one response, of a status GENDEC may give, with data exactly for a GEN_ROM_RD that
ended OK; and the command index moves by one, whatever the status (data is decision D23, log 23; `TransportFault` never
D18, log 17; the index D29, log 29). -/
def Obligations.EachCommandGetsOneResponse : Prop :=
  ∀ (s : State) (c : Cmd) (rest : List Cmd), s.offer = .command c rest →
    ∃ (t : State) (r : Response), step s = .next t ∧ t.responses = s.responses ++ [r] ∧ t.k = s.k + 1 ∧
      t.pending = rest ∧ t.busy = false ∧ r.status ≠ .transportFault ∧
      (r.data.isSome = true ↔ r.status = .ok ∧ decodeOpcode c.opcode = some .genRomRd)

/-- After every command GENDEC is ready, no request is in progress and all four strobes are high (strobes outside a
request are decision D20, log 19). -/
def Obligations.ReadyWithStrobesHighAfterEveryCommand : Prop :=
  ∀ (i : Instr) (s t : State), exec i s = .next t →
    t.cmdReady = true ∧ t.inFlight = none ∧ t.strobeLevels = ⟨.high, .high, .high, .high⟩

/-- The don't-care field: the miscdata of opcodes 0, 1 and 2 affects neither state nor request nor response (decision
D13, log 12, with `MISC_HIGH_MUX = off`, D22, log 22). -/
def Obligations.DontCareMiscdataChangesNothing : Prop :=
  ∀ (o m n : Word) (s : State),
    exec (.genSetAddr o m) s = exec (.genSetAddr o n) s ∧
    exec (.genRomRd o m) s = exec (.genRomRd o n) s ∧
    exec (.genSetBank o m) s = exec (.genSetBank o n) s

/-- The command index is a position in the input and nothing else: no instruction reads it (decision D29, log 29). -/
def Obligations.CommandIndexIsNeverRead : Prop :=
  ∀ (i : Instr) (s t : State) (n : Nat), exec i s = .next t →
    exec i { s with k := n } = .next { t with k := n + 1 }

/-- The ghost bits say what they stand for: `low_written` is set by a successful whole write of LOW, `high_written` by
GEN_SET_BANK, and nothing clears either (log 30). -/
def Obligations.GhostBitsRecordTheFirstWrite : Prop :=
  ∀ (i : Instr) (s t : State), exec i s = .next t →
    (t.highWritten = true ↔ s.highWritten = true ∨ i.op = .genSetBank) ∧
    (t.lowWritten = true ↔ s.lowWritten = true ∨ i.op = .genSetAddr ∨
      ((i.op = .genRomRd ∨ i.op = .genWrLo ∨ i.op = .genWrHi) ∧ t.lastStatus = some .ok))

/-! ### Frames -/

/-- Frame of the address-setting opcodes: they touch no memory, make no request (decision D26, log 26) and change no
register but their own. -/
def Obligations.AddressSettingFrame : Prop :=
  ∀ (o m : Word) (s t : State) (i : Instr), i = .genSetAddr o m ∨ i = .genSetBank o m → exec i s = .next t →
    (i = .genSetAddr o m → t.high = s.high ∧ t.highWritten = s.highWritten) ∧
    (i = .genSetBank o m → t.low = s.low ∧ t.lowWritten = s.lowWritten) ∧
    t.history = s.history ∧ t.answers = s.answers ∧ t.pending = s.pending ∧ t.refCart = s.refCart ∧
    ∀ key, t.cartByte key = s.cartByte key

/-- Frame of GEN_ROM_RD, GEN_WR_LO and GEN_WR_HI, whatever status they end with: HIGH, so both flags, is unchanged; LOW
is unchanged or the operand; every lane byte of the cartridge is unchanged but, for a byte write, the one lane of the one
word at `HIGH[6:0] : operand` (decisions D8, D9, log 8; the cartridge is the test aid of log 25). -/
def Obligations.BusAccessFrame : Prop :=
  ∀ (a m : Word) (s t : State) (i : Instr), i = .genRomRd a m ∨ i = .genWrLo a m ∨ i = .genWrHi a m →
    exec i s = .next t →
    t.high = s.high ∧ t.highWritten = s.highWritten ∧
    (t.low = s.low ∧ t.lowWritten = s.lowWritten ∨ t.low = a ∧ t.lowWritten = true) ∧
    t.pending = s.pending ∧ t.refCart = s.refCart ∧
    (i = .genRomRd a m → ∀ key, t.cartByte key = s.cartByte key) ∧
    (i = .genWrLo a m → ∀ key, key ≠ laneKey (bankAddr s.high a) .low → t.cartByte key = s.cartByte key) ∧
    (i = .genWrHi a m → ∀ key, key ≠ laneKey (bankAddr s.high a) .high → t.cartByte key = s.cartByte key)

/-- Frame of the flash opcodes, whatever status they end with: both registers and both ghost bits are unchanged; every
lane byte of the cartridge is unchanged but the two lanes of the one word at the effective address (decisions D10, D11,
logs 9, 10; the cartridge is the test aid of log 25). -/
def Obligations.FlashWriteFrame : Prop :=
  ∀ (d off : Word) (s t : State) (i : Instr), i = .genFlashWrAddroff d off ∨ i = .genSstFlashWrAddroff d off →
    exec i s = .next t →
    t.low = s.low ∧ t.high = s.high ∧ t.lowWritten = s.lowWritten ∧ t.highWritten = s.highWritten ∧
    t.pending = s.pending ∧ t.refCart = s.refCart ∧
    ∀ key, key ≠ laneKey (effectiveAddr s.high s.low off) .low →
      key ≠ laneKey (effectiveAddr s.high s.low off) .high → t.cartByte key = s.cartByte key

/-! ### The whole machine -/

/-- The meanings agree with the staged dispatch of 40_dispatch.md, for every parameter value, every instruction, every
oracle and every state: registers, response and request are those of the six stages and the three multiplexers. And `exec` is the meaning
at the parameters in use (the tables rest on decisions D8 to D14, D17, D20, D22 and D23 and their logs). -/
def Obligations.MeaningsAgreeWithTheStagedDispatch : Prop :=
  (∀ (p : Params) (i : Instr) (bus : BusReq → BusAnswer) (g : Gendec),
    (perform p i bus g).gendec.own = (Stages.dispatch p g.own (encode i) bus).own ∧
    (perform p i bus g).response = (Stages.dispatch p g.own (encode i) bus).response ∧
    (perform p i bus g).transfer = (Stages.dispatch p g.own (encode i) bus).transfer) ∧
  ∀ (i : Instr) (s : State), exec i s = .next (s.record (perform params i s.busAnswer s.toGendec))

/-- The unassigned bits of HIGH are never observed: two states whose HIGHs give the same bank and flag lines go through
any number of steps with the same requests, responses, LOW and everything else, and their HIGHs keep giving the same
lines (decision D30; the bit layout is D4, D5, logs 5, 6). -/
def Obligations.UnassignedBitsAreNeverObserved : Prop :=
  ∀ (n : Nat) (s : State) (h : Word), sameLines params.flags s.high h →
    ∃ t t' : State, Host.Core.run Sys2Proof.core n s = .next t ∧
      Host.Core.run Sys2Proof.core n { s with high := h } = .next t' ∧
      t' = { t with high := t'.high } ∧ sameLines params.flags t.high t'.high

/-- The reset draw does not matter to a host that does its duty: two states that differ only in registers not yet written
go through the same requests and responses, as long as each data opcode comes after the writes R163 asks for (the draw is
decision D19, log 18; the ghost bits are log 30). -/
def Obligations.ResetDrawIsInvisibleToADutifulHost : Prop :=
  ∀ (n : Nat) (s t : State), State.SameButUnwritten s t → State.DutyMetFor n s →
    ∃ s' t' : State, Host.Core.run Sys2Proof.core n s = .next s' ∧ Host.Core.run Sys2Proof.core n t = .next t' ∧
      State.SameButUnwritten s' t' ∧ t'.responses = s'.responses ∧ t'.history = s'.history

/-- A run takes the commands in arrival order, one a step, answers each once, and never takes back a response or a
request (decisions D21, D29, logs 2, 21, 29). -/
def Obligations.RunAnswersCommandsInOrder : Prop :=
  ∀ (n : Nat) (s : State), s.busy = false →
    ∃ t : State, Host.Core.run Sys2Proof.core n s = .next t ∧ t.busy = false ∧
      t.pending = s.pending.drop n ∧
      t.k = s.k + min n s.pending.length ∧
      t.responses.length = s.responses.length + min n s.pending.length ∧
      s.responses <+: t.responses ∧ s.history <+: t.history

/-! ### The reference cartridge -/

/-- Under `RefCart`: GEN_WR_LO changes the low lane of its word, GEN_WR_HI the high lane, a flash write the whole word,
and GEN_ROM_RD returns the word and changes nothing (decision D25, log 25). -/
def Obligations.ReferenceCartridgeFacts : Prop :=
  ∀ (s : State) (a m : Word) (x : WordAddr), s.answers = [] → s.refCart = true → Memory.wf s.mem = true →
    (m.toNat ≤ 0x00FF → ∃ t, exec (.genWrLo a m) s = .next t ∧
      Memory.readWord t.mem x =
        if x = bankAddr s.high a then (Memory.readWord s.mem x).extractLsb' 8 8 ++ m.extractLsb' 0 8
        else Memory.readWord s.mem x) ∧
    (m.toNat ≤ 0x00FF → ∃ t, exec (.genWrHi a m) s = .next t ∧
      Memory.readWord t.mem x =
        if x = bankAddr s.high a then m.extractLsb' 0 8 ++ (Memory.readWord s.mem x).extractLsb' 0 8
        else Memory.readWord s.mem x) ∧
    (∀ i : Instr, i = .genFlashWrAddroff a m ∨ i = .genSstFlashWrAddroff a m → ∃ t, exec i s = .next t ∧
      Memory.readWord t.mem x =
        if x = effectiveAddr s.high s.low m then a else Memory.readWord s.mem x) ∧
    ∃ t, exec (.genRomRd a m) s = .next t ∧ t.mem = s.mem ∧
      t.responses = s.responses ++ [⟨.ok, some (Memory.readWord s.mem (bankAddr s.high a))⟩]

/-- Under `RefCart`: the low byte a GEN_WR_LO wrote is read back by a GEN_ROM_RD of the same address in the same bank
after any number of GEN_WR_HI commands, in range or not, to any addresses (decision D25, log 25). -/
def Obligations.LowByteSurvivesHighByteWrites : Prop :=
  ∀ (s : State) (a b n : Word) (highs : List (Word × Word)) (later : List Cmd),
    s.busy = false → s.answers = [] → s.refCart = true → Memory.wf s.mem = true → b.toNat ≤ 0x00FF →
    s.pending = encode (.genWrLo a b) :: (highs.map fun h => encode (.genWrHi h.1 h.2)) ++
      encode (.genRomRd a n) :: later →
    ∃ (t : State) (w : Word), Host.Core.run Sys2Proof.core (highs.length + 2) s = .next t ∧
      t.pending = later ∧ t.responses.getLast? = some ⟨.ok, some w⟩ ∧ w.extractLsb' 0 8 = b.extractLsb' 0 8

/-! ### The response at the transport, and reset between commands -/

/-- The two bytes of a read word in both orders, and what the transport is given (R35; the order is open, D15, log 14). -/
def Obligations.ReadBytesInEitherOrder : Prop :=
  ∀ w : Word,
    rdBytes .little w = [w.extractLsb' 0 8, w.extractLsb' 8 8] ∧
    rdBytes .big w = [w.extractLsb' 8 8, w.extractLsb' 0 8] ∧
    (∀ (o : RdOrder) (st : Status), toTransport o ⟨st, none⟩ = (statusCode st, [])) ∧
    ∀ o : RdOrder, toTransport o ⟨.ok, some w⟩ = (0, rdBytes o w)

/-- The status numbers are the spec's default and no two statuses share one (decision D16, log 15). -/
def Obligations.StatusNumbersAreDistinct : Prop :=
  [Status.ok, .unsupportedOpcode, .operandOutOfRange, .busFault, .transportFault].map statusCode = [0, 1, 2, 3, 4] ∧
  ∀ a b : Status, statusCode a = statusCode b → a = b

/-- Reset between commands makes no request and leaves the cartridge alone; the registers are the new draw, the session's
records start over, and the invariant holds if the cartridge's memory is canonical (decision D28, log 28). The model's
choice (logs 24, 28): answers fixed in advance stand, and the old session's history is kept where the free answers can
depend on it. -/
def Obligations.ResetLeavesTheCartridgeAlone : Prop :=
  ∀ (s : State) (x y : Word),
    (s.rst x y).low = x ∧ (s.rst x y).high = y ∧ (s.rst x y).mem = s.mem ∧ (s.rst x y).refCart = s.refCart ∧
    (s.rst x y).answers = s.answers ∧ (s.rst x y).earlier = s.earlier ++ [s.history] ∧ (s.rst x y).history = [] ∧
    (s.rst x y).responses = [] ∧
    (s.rst x y).strobeLevels = ⟨.high, .high, .high, .high⟩ ∧
    (Memory.wf s.mem = true → (s.rst x y).Inv)

/-! ### The step relation and its parameters -/

/-- `step` is the step relation of R25 and R70 at the inputs the surroundings supply: the command at the head of the
arrival order, the oracle, the parameters in use. The relation itself sees none of them as state (log 1). -/
def Obligations.StepIsTheCycleOfItsInputs : Prop :=
  ∀ (s : State) (c : Cmd) (rest : List Cmd), s.offer = .command c rest →
    step s = .next ((s.take rest).record (cycle params c s.busAnswer s.toGendec))

/-- No oracle is left out by holding its answers in `State`: for every oracle there is a list of answers with which the
steps that take the commands offered leave what the run under that oracle leaves (log 1, log 24; decision D24). -/
def Obligations.EveryOracleIsAListOfAnswers : Prop :=
  ∀ (bus : List Transfer → BusReq → BusAnswer) (s : State), s.busy = false →
    ∃ (answers : List BusAnswer) (t : State),
      Host.Core.run Sys2Proof.core s.pending.length { s with answers := answers } = .next t ∧
      t.trace = Trace.run params bus s.pending s.trace ∧ t.pending = [] ∧ t.answers = []

/-- With no answer fixed in advance and no reference cartridge, the steps that take the commands offered leave what the run
under the free oracle leaves (log 24; decision D24). -/
def Obligations.FreeAnswersRunTheSession : Prop :=
  ∀ s : State, s.busy = false → s.answers = [] → s.refCart = false →
    ∃ t : State, Host.Core.run Sys2Proof.core s.pending.length s = .next t ∧
      t.trace = Trace.run params (Config.busAnswer s.earlier) s.pending s.trace ∧ t.pending = []

/-- `UnsupportedOpcode` is raised before anything else is looked at: for every opcode that decodes to none, under any
parameters and any oracle, whatever operand and miscdata hold, the response is that status with no data, no request is
made, and CA, all of LOW and HIGH and both flag lines are what they were. -/
def Obligations.UnsupportedOpcodeLooksAtNothingElse : Prop :=
  ∀ (p : Params) (c : Cmd) (bus : BusReq → BusAnswer) (g : Gendec), decodeOpcode c.opcode = none →
    cycle p c bus g = ⟨{ g with busy := false, inFlight := none }, ⟨.unsupportedOpcode, none⟩, none⟩ ∧
    (cycle p c bus g).gendec.currentAddress = g.currentAddress ∧
    loMemLevel p.flags (cycle p c bus g).gendec.high = loMemLevel p.flags g.high ∧
    timeLevel p.flags (cycle p c bus g).gendec.high = timeLevel p.flags g.high

/-- An instruction depends on the oracle only through the answer to its own request: an instruction that makes no request
does not depend on it at all (decision D24, log 24; no request for opcodes 0 and 2 is D26, log 26). -/
def Obligations.OnlyTheOwnRequestsAnswerMatters : Prop :=
  ∀ (p : Params) (i : Instr) (bus bus' : BusReq → BusAnswer) (g : Gendec),
    (∀ req, requestOf p i g = some req → bus req = bus' req) → perform p i bus g = perform p i bus' g
end

