-- ==== Sys2Proof/Laws/Flags.lean ====
section
/-! SUPPORT. The flag positions are exactly the pairs the spec allows, and what the address and range computations give on
numbers. -/

namespace Sys2Proof.Machine

/-! ### Flag positions (R12) -/

/-- `LO_MEM_BIT` is in 7..15. -/
theorem loMemBit_range (f : FlagPositions) : 7 ≤ loMemBit f ∧ loMemBit f ≤ 15 := by
  have := f.loMem.isLt
  simp only [loMemBit]
  omega

/-- `TIME_BIT` is in 7..15. -/
theorem timeBit_range (f : FlagPositions) : 7 ≤ timeBit f ∧ timeBit f ≤ 15 := by
  have := f.loMem.isLt
  have := f.time.isLt
  simp only [timeBit]
  split <;> omega

/-- The two positions differ. -/
theorem loMemBit_ne_timeBit (f : FlagPositions) : loMemBit f ≠ timeBit f := by
  simp only [loMemBit, timeBit]
  split <;> omega

/-- Every pair of two different positions in 7..15 is one of the type's values: no layout is left out. -/
theorem exists_flagPositions {a b : Nat} (ha : 7 ≤ a ∧ a ≤ 15) (hb : 7 ≤ b ∧ b ≤ 15) (hne : a ≠ b) :
    ∃ f : FlagPositions, loMemBit f = a ∧ timeBit f = b := by
  refine ⟨⟨⟨a - 7, by omega⟩, ⟨if b < a then b - 7 else b - 8, by split <;> omega⟩⟩, ?_, ?_⟩
  · simp only [loMemBit]; omega
  · simp only [timeBit]; split <;> split at * <;> omega

/-! ### Addresses on numbers -/

/-- The bank as a number. -/
theorem bankOf_toNat (h : Word) : (bankOf h).toNat = h.toNat % 128 := by
  simp [bankOf, BitVec.extractLsb'_toNat]

/-- An absolute address as a number (R75). -/
theorem bankAddr_toNat (h o : Word) : (bankAddr h o).toNat = h.toNat % 128 * 65536 + o.toNat := by
  have := o.isLt
  rw [bankAddr, BitVec.toNat_append, bankOf_toNat, Nat.shiftLeft_eq, Nat.mul_comm (h.toNat % 128),
    ← Nat.two_pow_add_eq_or_of_lt this]

/-- The low half of an absolute address is the operand. -/
@[simp] theorem bankAddr_low (h o : Word) : (bankAddr h o).extractLsb' 0 16 = o := by
  apply BitVec.eq_of_toNat_eq
  have := o.isLt
  rw [BitVec.extractLsb'_toNat, bankAddr_toNat, Nat.shiftRight_zero]
  omega

/-- The high half of an absolute address is the bank. -/
@[simp] theorem bankAddr_high (h o : Word) : (bankAddr h o).extractLsb' 16 7 = bankOf h := by
  apply BitVec.eq_of_toNat_eq
  have := o.isLt
  rw [BitVec.extractLsb'_toNat, bankAddr_toNat, bankOf_toNat, Nat.shiftRight_eq_div_pow]
  omega

/-! ### The range check -/

/-- Under `truncate` every field passes (R58). -/
theorem fieldInRange_truncate {p : Params} (h : p.rangePolicy = .truncate) (w : Nat) (v : Word) :
    fieldInRange p w v = true := by
  simp [fieldInRange, h]

/-- Under `reject` a field passes when its number is below two to its declared width (R57). -/
theorem fieldInRange_reject {p : Params} (h : p.rangePolicy = .reject) (w : Nat) (v : Word) :
    fieldInRange p w v = decide (v.toNat < 2 ^ w) := by
  simp only [fieldInRange, h, decide_eq_decide, ← BitVec.toNat_inj, BitVec.toNat_ushiftRight, Nat.shiftRight_eq_div_pow]
  exact Nat.div_eq_zero_iff.trans (or_iff_right (Nat.two_pow_pos w).ne')

end Sys2Proof.Machine
end

