-- ==== Sys2Proof/Laws/Decode.lean ====
section
/-! SUPPORT. The opcode table against the decoder, and the two readings of the declared widths against each other. -/

namespace Sys2Proof

/-- No two rows of the opcode table share a word (R52). -/
theorem opcodeRows_disjoint :
    opcodeRows.Pairwise fun r r' => r.value &&& r'.mask ≠ r'.value &&& r.mask := by decide

/-- The name of an instruction's opcode number is its opcode (R52, R54). -/
@[simp] theorem decodeOpcode_number (op : Opcode) : decodeOpcode op.number = some op := by
  cases op <;> rfl

/-- An instruction built from its own opcode and fields is itself. -/
@[simp] theorem instr_eta (i : Instr) : i.op.instr i.operand i.miscdata = i := by
  cases i <;> rfl

/-- The fields of an instruction built from an opcode. -/
@[simp] theorem op_instr (op : Opcode) (o m : Word) : (op.instr o m).op = op := by cases op <;> rfl
@[simp] theorem operand_instr (op : Opcode) (o m : Word) : (op.instr o m).operand = o := by cases op <;> rfl
@[simp] theorem miscdata_instr (op : Opcode) (o m : Word) : (op.instr o m).miscdata = m := by cases op <;> rfl

/-- Under `reject`, the range stage of a byte write and the declared width agree (R57). -/
theorem fieldInRange_eq_wellFormed {p : Params} (h : p.rangePolicy = .reject) (o m : Word) :
    Machine.fieldInRange p 8 m = (Instr.genWrLo o m).wellFormed p.miscHighMux ∧
    Machine.fieldInRange p 8 m = (Instr.genWrHi o m).wellFormed p.miscHighMux := by
  rw [Machine.fieldInRange_reject h]
  exact ⟨rfl, rfl⟩

end Sys2Proof
end

