-- ==== Sys2Proof/Laws/Memory.lean ====
section
/-! SUPPORT. The laws of the reference cartridge's memory: every operation keeps the canonical form, a read after a write
gives the value written there and the old value elsewhere, and canonical memories that read alike are equal. -/

namespace Sys2Proof.Machine

/-! ### Lane keys -/

/-- A lane key is inside the cartridge space of 2^24 lane bytes. -/
theorem laneKey_lt (a : WordAddr) (l : Lane) : laneKey a l < 2 ^ 24 := by
  have := a.isLt
  cases l <;> simp only [laneKey] <;> omega

/-- Lane keys name lanes uniquely. -/
theorem laneKey_inj {a b : WordAddr} {l m : Lane} : laneKey a l = laneKey b m ↔ a = b ∧ l = m := by
  rw [← BitVec.toNat_inj]
  cases l <;> cases m <;> simp only [laneKey, reduceCtorEq, and_false, and_true, iff_false] <;> omega

/-! ### The canonical form -/

/-- The canonical form, one entry at a time. -/
theorem Memory.wfFrom_cons {lo k : Nat} {b : Byte} {m : Memory} :
    Memory.wfFrom lo ((k, b) :: m) = true ↔
      lo ≤ k ∧ k < 2 ^ 24 ∧ b ≠ Memory.unlisted ∧ Memory.wfFrom (k + 1) m = true := by
  simp [Memory.wfFrom, and_assoc]

/-- A canonical form from a key on is one from any lower key on. -/
theorem Memory.wfFrom_mono {lo lo' : Nat} {m : Memory} (h : lo' ≤ lo) (w : Memory.wfFrom lo m = true) :
    Memory.wfFrom lo' m = true := by
  cases m with
  | nil => rfl
  | cons c m =>
    obtain ⟨k, b⟩ := c
    rw [Memory.wfFrom_cons] at w ⊢
    exact ⟨by omega, w.2⟩

/-- Keys below the first reads as unlisted. -/
theorem Memory.read_of_lt {lo a : Nat} {m : Memory} (w : Memory.wfFrom lo m = true) (h : a < lo) :
    Memory.read m a = Memory.unlisted := by
  induction m generalizing lo with
  | nil => rfl
  | cons c m ih =>
    obtain ⟨k, b⟩ := c
    rw [Memory.wfFrom_cons] at w
    simp only [Memory.read, if_neg (show a ≠ k by omega)]
    exact ih w.2.2.2 (by omega)

/-- A write keeps the canonical form. -/
theorem Memory.wfFrom_write {lo a : Nat} {v : Byte} {m : Memory} (w : Memory.wfFrom lo m = true) (hlo : lo ≤ a)
    (ha : a < 2 ^ 24) : Memory.wfFrom lo (Memory.write m a v) = true := by
  induction m generalizing lo with
  | nil =>
    simp only [Memory.write]
    split
    · rfl
    · exact Memory.wfFrom_cons.2 ⟨hlo, ha, ‹_›, rfl⟩
  | cons c m ih =>
    obtain ⟨k, b⟩ := c
    have w' := Memory.wfFrom_cons.1 w
    simp only [Memory.write]
    split
    · split
      · exact w
      · exact Memory.wfFrom_cons.2 ⟨hlo, ha, ‹_›, Memory.wfFrom_cons.2 ⟨by omega, w'.2⟩⟩
    · split
      · split
        · exact Memory.wfFrom_mono (by omega) w'.2.2.2
        · exact Memory.wfFrom_cons.2 ⟨hlo, ha, ‹_›, by subst_vars; exact w'.2.2.2⟩
      · exact Memory.wfFrom_cons.2 ⟨w'.1, w'.2.1, w'.2.2.1, ih w'.2.2.2 (by omega)⟩

/-- Writing one lane keeps the canonical form. -/
theorem Memory.wf_writeLane {m : Memory} (w : Memory.wf m = true) (a : WordAddr) (l : Lane) (b : Option Byte) :
    Memory.wf (Memory.writeLane m a l b) = true := by
  cases b with
  | none => exact w
  | some v => exact Memory.wfFrom_write w (Nat.zero_le _) (laneKey_lt a l)

/-- Every operation of the reference cartridge keeps the canonical form. -/
theorem Memory.wf_refCartAfter {m : Memory} (w : Memory.wf m = true) (req : BusReq) :
    Memory.wf (refCartAfter m req) = true := by
  unfold refCartAfter
  cases req.kind
  · exact w
  all_goals exact Memory.wf_writeLane (by first | exact w | exact Memory.wf_writeLane w _ _ _) _ _ _

/-! ### Read after write -/

/-- A read after a write, in a canonical memory. -/
theorem Memory.read_write {lo : Nat} {m : Memory} (w : Memory.wfFrom lo m = true) (a c : Nat) (v : Byte) :
    Memory.read (Memory.write m a v) c = if c = a then v else Memory.read m c := by
  induction m generalizing lo with
  | nil =>
    simp only [Memory.write]
    by_cases hv : v = Memory.unlisted
    · simp [Memory.read, hv]
    · simp [Memory.read, hv]
  | cons e m ih =>
    obtain ⟨k, b⟩ := e
    have w' := Memory.wfFrom_cons.1 w
    have tail : ∀ {x}, x ≤ k → Memory.read m x = Memory.unlisted := fun h =>
      Memory.read_of_lt w'.2.2.2 (by omega)
    have ih := ih w'.2.2.2
    simp only [Memory.write]
    by_cases hak : a < k
    · rw [if_pos hak]
      by_cases hv : v = Memory.unlisted
      · rw [if_pos hv]
        by_cases hc : c = a
        · subst hc
          simp only [Memory.read, if_neg (show c ≠ k by omega), tail (Nat.le_of_lt hak), hv, if_true]
        · rw [if_neg hc]
      · rw [if_neg hv]
        rfl
    · rw [if_neg hak]
      by_cases hk : a = k
      · subst hk
        rw [if_pos rfl]
        by_cases hv : v = Memory.unlisted
        · rw [if_pos hv]
          by_cases hc : c = a
          · subst hc
            rw [if_pos rfl, tail (Nat.le_refl _), hv]
          · simp only [Memory.read, if_neg hc]
        · rw [if_neg hv]
          by_cases hc : c = a <;> simp only [Memory.read, hc, if_true, if_false]
      · rw [if_neg hk]
        by_cases hc : c = k
        · subst hc
          simp only [Memory.read, if_true, if_neg (Ne.symm hk)]
        · simp only [Memory.read, if_neg hc, ih]

/-- Reading one lane after writing one lane. -/
theorem Memory.read_writeLane {m : Memory} (w : Memory.wf m = true) (a b : WordAddr) (l l' : Lane) (v : Byte) :
    Memory.read (Memory.writeLane m a l (some v)) (laneKey b l') =
      if b = a ∧ l' = l then v else Memory.read m (laneKey b l') := by
  simp only [Memory.writeLane, Memory.read_write w, laneKey_inj]

/-- A write leaves every other key alone, in any memory. -/
theorem Memory.read_write_ne (m : Memory) {a c : Nat} (v : Byte) (h : c ≠ a) :
    Memory.read (Memory.write m a v) c = Memory.read m c := by
  induction m with
  | nil =>
    by_cases hv : v = Memory.unlisted
    · simp [Memory.write, Memory.read, hv]
    · simp [Memory.write, Memory.read, hv, h]
  | cons e m ih =>
    obtain ⟨k, b⟩ := e
    simp only [Memory.write]
    split_ifs <;> simp_all [Memory.read]

/-- The low byte of a word is its low lane. -/
@[simp] theorem Memory.readWord_low (m : Memory) (a : WordAddr) :
    (Memory.readWord m a).extractLsb' 0 8 = Memory.read m (laneKey a .low) :=
  BitVec.extractLsb'_append_eq_right

/-- The high byte of a word is its high lane. -/
@[simp] theorem Memory.readWord_high (m : Memory) (a : WordAddr) :
    (Memory.readWord m a).extractLsb' 8 8 = Memory.read m (laneKey a .high) :=
  BitVec.extractLsb'_append_eq_left

/-- Reset lists no byte, and that is canonical. -/
theorem reset_mem_wf : Memory.wf State.reset.mem = true := rfl

/-- Canonical memories that read alike are equal. -/
theorem Memory.eq_of_read {lo : Nat} {m m' : Memory} (w : Memory.wfFrom lo m = true) (w' : Memory.wfFrom lo m' = true)
    (h : ∀ a, Memory.read m a = Memory.read m' a) : m = m' := by
  induction m generalizing lo m' with
  | nil =>
    cases m' with
    | nil => rfl
    | cons c m' =>
      obtain ⟨k, b⟩ := c
      have := h k
      simp only [Memory.read, if_true] at this
      exact absurd this.symm (Memory.wfFrom_cons.1 w').2.2.1
  | cons c m ih =>
    obtain ⟨k, b⟩ := c
    have w1 := Memory.wfFrom_cons.1 w
    cases m' with
    | nil =>
      have := h k
      simp only [Memory.read, if_true] at this
      exact absurd this w1.2.2.1
    | cons c' m' =>
      obtain ⟨k', b'⟩ := c'
      have w2 := Memory.wfFrom_cons.1 w'
      have hk : k = k' := by
        by_contra hne
        rcases Nat.lt_or_gt_of_ne hne with hlt | hlt
        · have := h k
          rw [Memory.read_of_lt (Memory.wfFrom_cons.2 ⟨Nat.le_refl k', w2.2⟩) hlt] at this
          simp only [Memory.read, if_true] at this
          exact w1.2.2.1 this
        · have := h k'
          rw [Memory.read_of_lt (Memory.wfFrom_cons.2 ⟨Nat.le_refl k, w1.2⟩) hlt] at this
          simp only [Memory.read, if_true] at this
          exact w2.2.2.1 this.symm
      subst hk
      have hb : b = b' := by simpa only [Memory.read, if_true] using h k
      subst hb
      have hm : m = m' := ih w1.2.2.2 w2.2.2.2 fun a => by
        by_cases ha : a = k
        · subst ha
          rw [Memory.read_of_lt w1.2.2.2 (Nat.lt_succ_self _), Memory.read_of_lt w2.2.2.2 (Nat.lt_succ_self _)]
        · simpa only [Memory.read, if_neg ha] using h a
      rw [hm]

end Sys2Proof.Machine
end

