-- ==== Sys2Proof/Laws/State.lean ====
section
/-! SUPPORT. One lemma per field per update of GENDEC, of its surroundings and of State, so that no later proof unfolds a
record update. -/

namespace Sys2Proof.Machine

/-! ### Gendec.setLow -/

@[simp] theorem Gendec.setLow_low (v : Word) (g : Gendec) : (g.setLow v).low = v := rfl
@[simp] theorem Gendec.setLow_high (v : Word) (g : Gendec) : (g.setLow v).high = g.high := rfl
@[simp] theorem Gendec.setLow_busy (v : Word) (g : Gendec) : (g.setLow v).busy = g.busy := rfl
@[simp] theorem Gendec.setLow_inFlight (v : Word) (g : Gendec) : (g.setLow v).inFlight = g.inFlight := rfl
@[simp] theorem Gendec.setLow_lowWritten (v : Word) (g : Gendec) : (g.setLow v).lowWritten = true := rfl
@[simp] theorem Gendec.setLow_highWritten (v : Word) (g : Gendec) : (g.setLow v).highWritten = g.highWritten := rfl

/-! ### Gendec.setHigh -/

@[simp] theorem Gendec.setHigh_low (v : Word) (g : Gendec) : (g.setHigh v).low = g.low := rfl
@[simp] theorem Gendec.setHigh_high (v : Word) (g : Gendec) : (g.setHigh v).high = v := rfl
@[simp] theorem Gendec.setHigh_busy (v : Word) (g : Gendec) : (g.setHigh v).busy = g.busy := rfl
@[simp] theorem Gendec.setHigh_inFlight (v : Word) (g : Gendec) : (g.setHigh v).inFlight = g.inFlight := rfl
@[simp] theorem Gendec.setHigh_lowWritten (v : Word) (g : Gendec) : (g.setHigh v).lowWritten = g.lowWritten := rfl
@[simp] theorem Gendec.setHigh_highWritten (v : Word) (g : Gendec) : (g.setHigh v).highWritten = true := rfl

/-! ### Gendec.setBankBits -/

@[simp] theorem Gendec.setBankBits_low (b : BitVec 7) (g : Gendec) : (g.setBankBits b).low = g.low := rfl
@[simp] theorem Gendec.setBankBits_high (b : BitVec 7) (g : Gendec) :
    (g.setBankBits b).high = g.high.extractLsb' 7 9 ++ b := rfl
@[simp] theorem Gendec.setBankBits_busy (b : BitVec 7) (g : Gendec) : (g.setBankBits b).busy = g.busy := rfl
@[simp] theorem Gendec.setBankBits_inFlight (b : BitVec 7) (g : Gendec) :
    (g.setBankBits b).inFlight = g.inFlight := rfl
@[simp] theorem Gendec.setBankBits_lowWritten (b : BitVec 7) (g : Gendec) :
    (g.setBankBits b).lowWritten = g.lowWritten := rfl
@[simp] theorem Gendec.setBankBits_highWritten (b : BitVec 7) (g : Gendec) :
    (g.setBankBits b).highWritten = g.highWritten := rfl

/-! ### Gendec.take -/

@[simp] theorem Gendec.take_low (g : Gendec) : (g.take).low = g.low := rfl
@[simp] theorem Gendec.take_high (g : Gendec) : (g.take).high = g.high := rfl
@[simp] theorem Gendec.take_busy (g : Gendec) : (g.take).busy = true := rfl
@[simp] theorem Gendec.take_inFlight (g : Gendec) : (g.take).inFlight = g.inFlight := rfl
@[simp] theorem Gendec.take_lowWritten (g : Gendec) : (g.take).lowWritten = g.lowWritten := rfl
@[simp] theorem Gendec.take_highWritten (g : Gendec) : (g.take).highWritten = g.highWritten := rfl

/-! ### Gendec.issue -/

@[simp] theorem Gendec.issue_low (req : BusReq) (g : Gendec) : (g.issue req).low = g.low := rfl
@[simp] theorem Gendec.issue_high (req : BusReq) (g : Gendec) : (g.issue req).high = g.high := rfl
@[simp] theorem Gendec.issue_busy (req : BusReq) (g : Gendec) : (g.issue req).busy = g.busy := rfl
@[simp] theorem Gendec.issue_inFlight (req : BusReq) (g : Gendec) : (g.issue req).inFlight = some req := rfl
@[simp] theorem Gendec.issue_lowWritten (req : BusReq) (g : Gendec) : (g.issue req).lowWritten = g.lowWritten := rfl
@[simp] theorem Gendec.issue_highWritten (req : BusReq) (g : Gendec) :
    (g.issue req).highWritten = g.highWritten := rfl

/-! ### Gendec.release -/

@[simp] theorem Gendec.release_low (g : Gendec) : (g.release).low = g.low := rfl
@[simp] theorem Gendec.release_high (g : Gendec) : (g.release).high = g.high := rfl
@[simp] theorem Gendec.release_busy (g : Gendec) : (g.release).busy = false := rfl
@[simp] theorem Gendec.release_inFlight (g : Gendec) : (g.release).inFlight = none := rfl
@[simp] theorem Gendec.release_lowWritten (g : Gendec) : (g.release).lowWritten = g.lowWritten := rfl
@[simp] theorem Gendec.release_highWritten (g : Gendec) : (g.release).highWritten = g.highWritten := rfl

/-- Giving up a request that was put in progress is ending the command. -/
@[simp] theorem Gendec.release_issue (req : BusReq) (g : Gendec) : (g.issue req).release = g.release := rfl

/-- Ending a command forgets that it was taken. -/
@[simp] theorem Gendec.release_take (g : Gendec) : g.take.release = g.release := rfl

/-! ### Gendec.respond -/

@[simp] theorem Gendec.respond_gendec (st : Status) (d : Option Word) (x : Option Transfer) (g : Gendec) :
    (g.respond st d x).gendec = g.release := rfl
@[simp] theorem Gendec.respond_response (st : Status) (d : Option Word) (x : Option Transfer) (g : Gendec) :
    (g.respond st d x).response = ⟨st, d⟩ := rfl
@[simp] theorem Gendec.respond_transfer (st : Status) (d : Option Word) (x : Option Transfer) (g : Gendec) :
    (g.respond st d x).transfer = x := rfl

/-- Raising a status is responding with it and no data. -/
@[simp] theorem Gendec.raise_eq_respond (st : Status) (x : Option Transfer) (g : Gendec) :
    g.raise st x = g.respond st none x := rfl

/-! ### Gendec.resetWith -/

@[simp] theorem Gendec.resetWith_low (l h : Word) : (Gendec.resetWith l h).low = l := rfl
@[simp] theorem Gendec.resetWith_high (l h : Word) : (Gendec.resetWith l h).high = h := rfl
@[simp] theorem Gendec.resetWith_busy (l h : Word) : (Gendec.resetWith l h).busy = false := rfl
@[simp] theorem Gendec.resetWith_inFlight (l h : Word) : (Gendec.resetWith l h).inFlight = none := rfl
@[simp] theorem Gendec.resetWith_lowWritten (l h : Word) : (Gendec.resetWith l h).lowWritten = false := rfl
@[simp] theorem Gendec.resetWith_highWritten (l h : Word) : (Gendec.resetWith l h).highWritten = false := rfl

/-! ### Outside.collect -/

@[simp] theorem Outside.collect_k (x : Transfer) (e : Outside) : (e.collect x).k = e.k := rfl
@[simp] theorem Outside.collect_pending (x : Transfer) (e : Outside) : (e.collect x).pending = e.pending := rfl
@[simp] theorem Outside.collect_answers (x : Transfer) (e : Outside) : (e.collect x).answers = e.answers.tail := rfl
@[simp] theorem Outside.collect_refCart (x : Transfer) (e : Outside) : (e.collect x).refCart = e.refCart := rfl
@[simp] theorem Outside.collect_mem (x : Transfer) (e : Outside) :
    (e.collect x).mem = if e.answers.isEmpty && e.refCart then refCartAfter e.mem x.req else e.mem := rfl
@[simp] theorem Outside.collect_history (x : Transfer) (e : Outside) : (e.collect x).history = e.history ++ [x] := rfl
@[simp] theorem Outside.collect_earlier (x : Transfer) (e : Outside) : (e.collect x).earlier = e.earlier := rfl
@[simp] theorem Outside.collect_responses (x : Transfer) (e : Outside) : (e.collect x).responses = e.responses := rfl

/-! ### Outside.deliver -/

@[simp] theorem Outside.deliver_k (r : Response) (e : Outside) : (e.deliver r).k = e.k + 1 := rfl
@[simp] theorem Outside.deliver_pending (r : Response) (e : Outside) : (e.deliver r).pending = e.pending := rfl
@[simp] theorem Outside.deliver_answers (r : Response) (e : Outside) : (e.deliver r).answers = e.answers := rfl
@[simp] theorem Outside.deliver_refCart (r : Response) (e : Outside) : (e.deliver r).refCart = e.refCart := rfl
@[simp] theorem Outside.deliver_mem (r : Response) (e : Outside) : (e.deliver r).mem = e.mem := rfl
@[simp] theorem Outside.deliver_history (r : Response) (e : Outside) : (e.deliver r).history = e.history := rfl
@[simp] theorem Outside.deliver_earlier (r : Response) (e : Outside) : (e.deliver r).earlier = e.earlier := rfl
@[simp] theorem Outside.deliver_responses (r : Response) (e : Outside) :
    (e.deliver r).responses = e.responses ++ [r] := rfl

/-! ### Outside.after -/

/-- No transfer: the response alone is recorded. -/
@[simp] theorem Outside.after_none (r : Response) (e : Outside) : e.after none r = e.deliver r := rfl

/-- One transfer: it is collected, then the response is recorded. -/
@[simp] theorem Outside.after_some (x : Transfer) (r : Response) (e : Outside) :
    e.after (some x) r = (e.collect x).deliver r := rfl

theorem Outside.after_k (x : Option Transfer) (r : Response) (e : Outside) : (e.after x r).k = e.k + 1 := by
  cases x <;> rfl

theorem Outside.after_pending (x : Option Transfer) (r : Response) (e : Outside) : (e.after x r).pending = e.pending := by
  cases x <;> rfl

theorem Outside.after_refCart (x : Option Transfer) (r : Response) (e : Outside) : (e.after x r).refCart = e.refCart := by
  cases x <;> rfl

theorem Outside.after_earlier (x : Option Transfer) (r : Response) (e : Outside) : (e.after x r).earlier = e.earlier := by
  cases x <;> rfl

theorem Outside.after_responses (x : Option Transfer) (r : Response) (e : Outside) : (e.after x r).responses = e.responses ++ [r] := by
  cases x <;> rfl

theorem Outside.after_history (x : Option Transfer) (r : Response) (e : Outside) :
    (e.after x r).history = e.history ++ x.toList := by
  cases x
  · exact (List.append_nil _).symm
  · rfl

/-! ### State.take -/

@[simp] theorem State.take_low (rest : List Cmd) (s : State) : (s.take rest).low = s.low := rfl
@[simp] theorem State.take_high (rest : List Cmd) (s : State) : (s.take rest).high = s.high := rfl
@[simp] theorem State.take_busy (rest : List Cmd) (s : State) : (s.take rest).busy = true := rfl
@[simp] theorem State.take_inFlight (rest : List Cmd) (s : State) : (s.take rest).inFlight = s.inFlight := rfl
@[simp] theorem State.take_lowWritten (rest : List Cmd) (s : State) : (s.take rest).lowWritten = s.lowWritten := rfl
@[simp] theorem State.take_highWritten (rest : List Cmd) (s : State) :
    (s.take rest).highWritten = s.highWritten := rfl
@[simp] theorem State.take_k (rest : List Cmd) (s : State) : (s.take rest).k = s.k := rfl
@[simp] theorem State.take_pending (rest : List Cmd) (s : State) : (s.take rest).pending = rest := rfl
@[simp] theorem State.take_answers (rest : List Cmd) (s : State) : (s.take rest).answers = s.answers := rfl
@[simp] theorem State.take_refCart (rest : List Cmd) (s : State) : (s.take rest).refCart = s.refCart := rfl
@[simp] theorem State.take_mem (rest : List Cmd) (s : State) : (s.take rest).mem = s.mem := rfl
@[simp] theorem State.take_history (rest : List Cmd) (s : State) : (s.take rest).history = s.history := rfl
@[simp] theorem State.take_earlier (rest : List Cmd) (s : State) : (s.take rest).earlier = s.earlier := rfl
@[simp] theorem State.take_responses (rest : List Cmd) (s : State) : (s.take rest).responses = s.responses := rfl

/-! ### State.offerFirst -/

@[simp] theorem State.offerFirst_low (c : Cmd) (s : State) : (s.offerFirst c).low = s.low := rfl
@[simp] theorem State.offerFirst_high (c : Cmd) (s : State) : (s.offerFirst c).high = s.high := rfl
@[simp] theorem State.offerFirst_busy (c : Cmd) (s : State) : (s.offerFirst c).busy = false := rfl
@[simp] theorem State.offerFirst_inFlight (c : Cmd) (s : State) : (s.offerFirst c).inFlight = s.inFlight := rfl
@[simp] theorem State.offerFirst_lowWritten (c : Cmd) (s : State) : (s.offerFirst c).lowWritten = s.lowWritten := rfl
@[simp] theorem State.offerFirst_highWritten (c : Cmd) (s : State) :
    (s.offerFirst c).highWritten = s.highWritten := rfl
@[simp] theorem State.offerFirst_k (c : Cmd) (s : State) : (s.offerFirst c).k = s.k := rfl
@[simp] theorem State.offerFirst_pending (c : Cmd) (s : State) : (s.offerFirst c).pending = c :: s.pending := rfl
@[simp] theorem State.offerFirst_answers (c : Cmd) (s : State) : (s.offerFirst c).answers = s.answers := rfl
@[simp] theorem State.offerFirst_refCart (c : Cmd) (s : State) : (s.offerFirst c).refCart = s.refCart := rfl
@[simp] theorem State.offerFirst_mem (c : Cmd) (s : State) : (s.offerFirst c).mem = s.mem := rfl
@[simp] theorem State.offerFirst_history (c : Cmd) (s : State) : (s.offerFirst c).history = s.history := rfl
@[simp] theorem State.offerFirst_earlier (c : Cmd) (s : State) : (s.offerFirst c).earlier = s.earlier := rfl
@[simp] theorem State.offerFirst_responses (c : Cmd) (s : State) : (s.offerFirst c).responses = s.responses := rfl

/-! ### State.rst -/

@[simp] theorem State.rst_low (l h : Word) (s : State) : (s.rst l h).low = l := rfl
@[simp] theorem State.rst_high (l h : Word) (s : State) : (s.rst l h).high = h := rfl
@[simp] theorem State.rst_busy (l h : Word) (s : State) : (s.rst l h).busy = false := rfl
@[simp] theorem State.rst_inFlight (l h : Word) (s : State) : (s.rst l h).inFlight = none := rfl
@[simp] theorem State.rst_lowWritten (l h : Word) (s : State) : (s.rst l h).lowWritten = false := rfl
@[simp] theorem State.rst_highWritten (l h : Word) (s : State) : (s.rst l h).highWritten = false := rfl
@[simp] theorem State.rst_k (l h : Word) (s : State) : (s.rst l h).k = 0 := rfl
@[simp] theorem State.rst_pending (l h : Word) (s : State) : (s.rst l h).pending = [] := rfl
@[simp] theorem State.rst_answers (l h : Word) (s : State) : (s.rst l h).answers = s.answers := rfl
@[simp] theorem State.rst_refCart (l h : Word) (s : State) : (s.rst l h).refCart = s.refCart := rfl
@[simp] theorem State.rst_mem (l h : Word) (s : State) : (s.rst l h).mem = s.mem := rfl
@[simp] theorem State.rst_history (l h : Word) (s : State) : (s.rst l h).history = [] := rfl
@[simp] theorem State.rst_earlier (l h : Word) (s : State) : (s.rst l h).earlier = s.earlier ++ [s.history] := rfl
@[simp] theorem State.rst_responses (l h : Word) (s : State) : (s.rst l h).responses = [] := rfl

/-! ### State.resetWith -/

@[simp] theorem State.resetWith_low (l h : Word) : (State.resetWith l h).low = l := rfl
@[simp] theorem State.resetWith_high (l h : Word) : (State.resetWith l h).high = h := rfl
@[simp] theorem State.resetWith_busy (l h : Word) : (State.resetWith l h).busy = false := rfl
@[simp] theorem State.resetWith_inFlight (l h : Word) : (State.resetWith l h).inFlight = none := rfl
@[simp] theorem State.resetWith_lowWritten (l h : Word) : (State.resetWith l h).lowWritten = false := rfl
@[simp] theorem State.resetWith_highWritten (l h : Word) : (State.resetWith l h).highWritten = false := rfl
@[simp] theorem State.resetWith_k (l h : Word) : (State.resetWith l h).k = 0 := rfl
@[simp] theorem State.resetWith_pending (l h : Word) : (State.resetWith l h).pending = [] := rfl
@[simp] theorem State.resetWith_answers (l h : Word) : (State.resetWith l h).answers = [] := rfl
@[simp] theorem State.resetWith_refCart (l h : Word) : (State.resetWith l h).refCart = false := rfl
@[simp] theorem State.resetWith_mem (l h : Word) : (State.resetWith l h).mem = [] := rfl
@[simp] theorem State.resetWith_history (l h : Word) : (State.resetWith l h).history = [] := rfl
@[simp] theorem State.resetWith_earlier (l h : Word) : (State.resetWith l h).earlier = [] := rfl
@[simp] theorem State.resetWith_responses (l h : Word) : (State.resetWith l h).responses = [] := rfl

/-! ### State.record and State.serve -/

@[simp] theorem State.record_toGendec (d : Done) (s : State) : (s.record d).toGendec = d.gendec := rfl

@[simp] theorem State.record_toOutside (d : Done) (s : State) :
    (s.record d).toOutside = s.toOutside.after d.transfer d.response := rfl

/-- Running a meaning records what it gives at the oracle the surroundings supply. -/
theorem State.serve_eq (meaning : (BusReq → BusAnswer) → Gendec → Done) (s : State) :
    s.serve meaning = s.record (meaning s.busAnswer s.toGendec) := rfl

/-! ### The oracle -/

/-- Taking a command does not change who answers it. -/
@[simp] theorem State.take_busAnswer (rest : List Cmd) (r : BusReq) (s : State) :
    (s.take rest).busAnswer r = s.busAnswer r := rfl

/-- Taking a command sets `BUSY` in GENDEC. -/
@[simp] theorem State.take_toGendec (rest : List Cmd) (s : State) : (s.take rest).toGendec = s.toGendec.take := rfl

end Sys2Proof.Machine
end

