-- ==== Sys2Proof/Laws/Ops.lean ====
section
/-! SUPPORT. What each shared operation can do, said once. -/

namespace Sys2Proof.Machine

/-! ### The Bus Driver's answer (R44) -/

/-- An answer fixed in advance is the answer. -/
theorem Outside.busAnswer_of_answers {e : Outside} {a : BusAnswer} {rest : List BusAnswer} (h : e.answers = a :: rest)
    (req : BusReq) : e.busAnswer req = a := by
  simp [Outside.busAnswer, h]

/-- The reference cartridge answers when nothing is fixed in advance. -/
theorem Outside.busAnswer_of_refCart {e : Outside} (h : e.answers = []) (hc : e.refCart = true) (req : BusReq) :
    e.busAnswer req = refCartAnswer e.mem req := by
  simp [Outside.busAnswer, h, hc]

/-- With neither, the answer is free. -/
theorem Outside.busAnswer_free {e : Outside} (h : e.answers = []) (hc : e.refCart = false) (req : BusReq) :
    e.busAnswer req = Config.busAnswer e.earlier e.history req := by
  simp [Outside.busAnswer, h, hc]

/-- The reference cartridge never fails (R46). -/
theorem refCartAnswer_ok (m : Memory) (req : BusReq) : (refCartAnswer m req).ok = true := by
  unfold refCartAnswer
  cases req.kind <;> rfl

/-- If the surroundings' answer to a request is `false`, the reference cartridge was not the one to answer, so collecting
the transfer leaves its contents alone. -/
theorem Outside.collect_mem_of_fault {e : Outside} {req : BusReq} (h : (e.busAnswer req).ok = false) (x : Transfer) :
    (e.collect x).mem = e.mem := by
  rw [Outside.collect_mem]
  split
  · rename_i hc
    simp only [Bool.and_eq_true, List.isEmpty_iff] at hc
    rw [Outside.busAnswer_of_refCart hc.1 hc.2, refCartAnswer_ok] at h
    exact absurd h (by decide)
  · rfl

/-! ### One transfer (R71, stages 4 to 6) -/

/-- A transfer that succeeds: commit, then an OK response. -/
theorem Gendec.access_ok {bus : BusReq → BusAnswer} {req : BusReq} (h : (bus req).ok = true) (commit : Gendec → Gendec)
    (data : BusAnswer → Option Word) (g : Gendec) :
    g.access req commit data bus = (commit (g.issue req)).respond .ok (data (bus req)) (some ⟨req, bus req⟩) := by
  simp [Gendec.access, h]

/-- A transfer that fails: no commit, a `BusFault` response (R139). -/
theorem Gendec.access_fault {bus : BusReq → BusAnswer} {req : BusReq} (h : (bus req).ok = false)
    (commit : Gendec → Gendec) (data : BusAnswer → Option Word) (g : Gendec) :
    g.access req commit data bus = g.respond .busFault none (some ⟨req, bus req⟩) := by
  simp [Gendec.access, h, Gendec.respond]

/-- A transfer succeeds or fails; there is no third case. -/
theorem Gendec.access_cases (g : Gendec) (req : BusReq) (commit : Gendec → Gendec) (data : BusAnswer → Option Word)
    (bus : BusReq → BusAnswer) :
    ((bus req).ok = true ∧
      g.access req commit data bus = (commit (g.issue req)).respond .ok (data (bus req)) (some ⟨req, bus req⟩)) ∨
    ((bus req).ok = false ∧ g.access req commit data bus = g.respond .busFault none (some ⟨req, bus req⟩)) := by
  cases h : (bus req).ok
  · exact .inr ⟨rfl, Gendec.access_fault h commit data g⟩
  · exact .inl ⟨rfl, Gendec.access_ok h commit data g⟩

/-! ### The range stage (R71, stage 2) -/

/-- In range: the command runs. -/
@[simp] theorem Gendec.inRangeThen_true (run : Gendec → Done) (g : Gendec) : g.inRangeThen true run = run g := rfl

/-- Out of range: the command ends before any request (R138). -/
@[simp] theorem Gendec.inRangeThen_false (run : Gendec → Done) (g : Gendec) :
    g.inRangeThen false run = g.respond .operandOutOfRange none none := rfl

/-- An address-setting opcode commits and answers OK. -/
@[simp] theorem Gendec.settle_eq (commit : Gendec → Gendec) (g : Gendec) :
    g.settle commit = (commit g).respond .ok none none := rfl

end Sys2Proof.Machine
end

