-- ==== Sys2Proof/Laws/PerInstr.lean ====
section
/-! SUPPORT. The per-instruction family `EncodesItsRow`: the word of an instruction belongs to the row of the opcode table
that carries its opcode name, and to no other row (R52). -/

namespace Sys2Proof.Laws.EncodesItsRow

/-- The word of `i` belongs to exactly the row of its opcode. -/
def Statement (i : Instr) : Prop := ∀ r ∈ opcodeRows, r.matches (encode i).word = true ↔ r.op = i.op

/-- The command word as a number (R51). -/
theorem word_toNat (c : Cmd) :
    c.word.toNat = c.opcode.toNat * 2 ^ 32 + c.operand.toNat * 2 ^ 16 + c.miscdata.toNat := by
  have h1 := c.operand.isLt
  have h2 := c.miscdata.isLt
  show ((c.opcode ++ c.operand) ++ c.miscdata).toNat = _
  rw [BitVec.toNat_append, BitVec.toNat_append, ← Nat.shiftLeft_add_eq_or_of_lt h2, ← Nat.shiftLeft_add_eq_or_of_lt h1,
    Nat.shiftLeft_eq, Nat.shiftLeft_eq]
  omega

/-- The rows' mask keeps the opcode byte alone (R52). -/
theorem mask_word (w : BitVec 40) :
    w &&& 0xFF00000000#40 = (w.extractLsb' 32 8).setWidth 40 <<< 32 := by
  have hm : ∀ i : Fin 40, (0xFF00000000#40)[i.val] = decide (32 ≤ i.val) := by decide
  ext i hi
  have hm := hm ⟨i, hi⟩
  by_cases h : i < 32
  · simp [hm, h]
  · simp [hm, h, show 32 ≤ i by omega, show i - 32 < 8 by omega, show 32 + (i - 32) = i by omega,
      BitVec.getLsbD_eq_getElem hi]

/-- The opcode byte of a command word. -/
theorem word_opcode (c : Cmd) : c.word.extractLsb' 32 8 = c.opcode := by
  apply BitVec.eq_of_toNat_eq
  have h0 := c.opcode.isLt
  have h1 := c.operand.isLt
  have h2 := c.miscdata.isLt
  rw [BitVec.extractLsb'_toNat, word_toNat, Nat.shiftRight_eq_div_pow]
  omega
/-- Whether a command belongs to a row is decided by its opcode byte alone (R52). -/
theorem matches_iff (c : Cmd) (r : OpcodeRow) (hr : r ∈ opcodeRows) :
    r.matches c.word = true ↔ c.opcode = r.op.number := by
  simp only [opcodeRows, List.mem_cons, List.not_mem_nil, or_false] at hr
  obtain rfl | rfl | rfl | rfl | rfl | rfl | rfl := hr <;>
    simp only [OpcodeRow.matches, mask_word, word_opcode, beq_iff_eq, Opcode.number] <;>
    generalize c.opcode = b <;> revert b <;> decide

/-- A row's opcode number names the row. -/
theorem number_inj {a b : Opcode} : a.number = b.number ↔ b = a := by
  cases a <;> cases b <;> decide

/-- Every instruction's word belongs to its own row only. -/
theorem of_instr (i : Instr) : Statement i := fun r hr => (matches_iff _ r hr).trans number_inj

theorem genSetAddr (operand miscdata : Word) : Statement (.genSetAddr operand miscdata) := of_instr _
theorem genRomRd (operand miscdata : Word) : Statement (.genRomRd operand miscdata) := of_instr _
theorem genSetBank (operand miscdata : Word) : Statement (.genSetBank operand miscdata) := of_instr _
theorem genWrLo (operand miscdata : Word) : Statement (.genWrLo operand miscdata) := of_instr _
theorem genWrHi (operand miscdata : Word) : Statement (.genWrHi operand miscdata) := of_instr _
theorem genFlashWrAddroff (operand miscdata : Word) : Statement (.genFlashWrAddroff operand miscdata) := of_instr _
theorem genSstFlashWrAddroff (operand miscdata : Word) : Statement (.genSstFlashWrAddroff operand miscdata) := of_instr _

end Sys2Proof.Laws.EncodesItsRow
end

