-- ==== Sys2Proof/Laws/Step.lean ====
section
/-! SUPPORT. What one command and one step can do, said once. -/

namespace Sys2Proof.Machine

/-! ### Every meaning is one run of the step relation -/

/-- `exec` is `perform` at the inputs the surroundings supply, whichever the instruction. -/
theorem exec_eq (i : Instr) (s : State) : exec i s = .next (s.record (perform params i s.busAnswer s.toGendec)) := by
  cases i <;> rfl

/-- `exec` always answers next. -/
theorem exec_next_iff {i : Instr} {s t : State} :
    exec i s = .next t ↔ t = s.record (perform params i s.busAnswer s.toGendec) := by
  rw [exec_eq]
  exact ⟨fun h => (Host.Outcome.next.inj h).symm, fun h => h ▸ rfl⟩

/-! ### Every request has its row's shape -/

theorem reqLegal_romRd (p : Params) (o : Word) (g : Gendec) : reqLegal (romRdReq p o g) = true := rfl
theorem reqLegal_wrLo (p : Params) (o m : Word) (g : Gendec) : reqLegal (wrLoReq p o m g) = true := rfl
theorem reqLegal_wrHi (p : Params) (o m : Word) (g : Gendec) : reqLegal (wrHiReq p o m g) = true := rfl
theorem reqLegal_flashWr (p : Params) (o m : Word) (g : Gendec) : reqLegal (flashWrReq p o m g) = true := rfl
theorem reqLegal_sstFlashWr (p : Params) (o m : Word) (g : Gendec) : reqLegal (sstFlashWrReq p o m g) = true := rfl

/-! ### What one command can do -/

/-- The forms a command's effect takes, under `MISC_HIGH_MUX = off`. A command out of range only answers; an
address-setting opcode loads one register and answers OK; a data opcode makes one transfer and then either answers
`BusFault`, or answers OK with `LOW` loaded (1, 3, 4) or with no register changed (5, 6). -/
inductive Effect (bus : BusReq → BusAnswer) (g : Gendec) : Done → Prop where
  | outOfRange : Effect bus g (g.respond .operandOutOfRange none none)
  | setLow (v : Word) : Effect bus g ((g.setLow v).respond .ok none none)
  | setHigh (v : Word) : Effect bus g ((g.setHigh v).respond .ok none none)
  | busFault (req : BusReq) (legal : reqLegal req = true) (h : (bus req).ok = false) :
      Effect bus g (g.respond .busFault none (some ⟨req, bus req⟩))
  | moved (req : BusReq) (v : Word) (d : Option Word) (legal : reqLegal req = true) (h : (bus req).ok = true) :
      Effect bus g ((g.setLow v).respond .ok d (some ⟨req, bus req⟩))
  | written (req : BusReq) (legal : reqLegal req = true) (h : (bus req).ok = true) :
      Effect bus g (g.respond .ok none (some ⟨req, bus req⟩))

/-- A transfer that loads `LOW` on success. -/
theorem Effect.of_access_setLow (bus : BusReq → BusAnswer) (g : Gendec) (req : BusReq) (legal : reqLegal req = true)
    (v : Word) (data : BusAnswer → Option Word) : Effect bus g (g.access req (Gendec.setLow v) data bus) := by
  rcases g.access_cases req (Gendec.setLow v) data bus with ⟨h, e⟩ | ⟨h, e⟩
  · rw [e]; exact .moved req v _ legal h
  · rw [e]; exact .busFault req legal h

/-- A transfer that changes no register. -/
theorem Effect.of_access_id (bus : BusReq → BusAnswer) (g : Gendec) (req : BusReq) (legal : reqLegal req = true) :
    Effect bus g (g.access req id (fun _ => none) bus) := by
  rcases g.access_cases req id (fun _ => none) bus with ⟨h, e⟩ | ⟨h, e⟩
  · rw [e]; exact .written req legal h
  · rw [e]; exact .busFault req legal h

/-- A command that passes or fails the range stage. -/
theorem Effect.of_inRangeThen {bus : BusReq → BusAnswer} {g : Gendec} {run : Gendec → Done} (c : Bool)
    (h : Effect bus g (run g)) : Effect bus g (g.inRangeThen c run) := by
  cases c
  · exact .outOfRange
  · exact h

/-- Every instruction has one of these effects. -/
theorem perform_cases {p : Params} (hp : p.miscHighMux = .off) (i : Instr) (bus : BusReq → BusAnswer) (g : Gendec) :
    Effect bus g (perform p i bus g) := by
  cases i with
  | genSetAddr o m => simp only [perform, setAddr, hp]; exact .setLow o
  | genRomRd o m => exact .of_access_setLow bus g (romRdReq p o g) rfl o fun a => some a.rdata
  | genSetBank o m => exact .setHigh o
  | genWrLo o m => exact .of_inRangeThen _ (.of_access_setLow bus g (wrLoReq p o m g) rfl o fun _ => none)
  | genWrHi o m => exact .of_inRangeThen _ (.of_access_setLow bus g (wrHiReq p o m g) rfl o fun _ => none)
  | genFlashWrAddroff o m => exact .of_access_id bus g (flashWrReq p o m g) rfl
  | genSstFlashWrAddroff o m => exact .of_access_id bus g (sstFlashWrReq p o m g) rfl

/-- What `exec` answers is one of these effects, recorded. -/
theorem exec_cases {i : Instr} {s t : State} (h : exec i s = .next t) :
    ∃ d, Effect s.busAnswer s.toGendec d ∧ t = s.record d :=
  ⟨_, perform_cases rfl i _ _, exec_next_iff.1 h⟩

/-! ### What one step can do -/

/-- The decoder's one reject names the opcode it was given. -/
theorem decode_error {c : Cmd} {r : DecodeReject} (h : decode c = .error r) : r = .unsupportedOpcode c.opcode := by
  unfold decode at h
  split at h <;> cases h
  rfl

/-- A step that takes a command is the step relation at the inputs the surroundings supply. -/
theorem step_eq_cycle {s : State} {c : Cmd} {rest : List Cmd} (h : s.offer = .command c rest) :
    step s = .next ((s.take rest).record (cycle params c s.busAnswer s.toGendec)) := by
  unfold step cycle
  simp only [h]
  cases hd : decode c with
  | ok i => simp only [exec_eq, State.take_toGendec]; rfl
  | error r => obtain rfl := decode_error hd; rfl

/-- A step that takes no command changes nothing. -/
theorem step_nothing {s : State} (h : s.offer = .nothing) : step s = .next s := by
  unfold step
  simp only [h, idle]

/-- A step that answers next took no command, or ran one command. -/
theorem step_cases {s t : State} (h : step s = .next t) :
    (s.offer = .nothing ∧ t = s) ∨
    (∃ c rest, s.offer = .command c rest ∧
      t = (s.take rest).record (cycle params c s.busAnswer s.toGendec)) := by
  cases ho : s.offer with
  | nothing => exact .inl ⟨rfl, (Host.Outcome.next.inj ((step_nothing ho).symm.trans h)).symm⟩
  | command c rest => exact .inr ⟨c, rest, rfl, (Host.Outcome.next.inj ((step_eq_cycle ho).symm.trans h)).symm⟩

/-- One command is an illegal opcode, answered, or one of the effects of an instruction. -/
theorem cycle_cases {p : Params} (hp : p.miscHighMux = .off) (c : Cmd) (bus : BusReq → BusAnswer) (g : Gendec) :
    (decode c = .error (.unsupportedOpcode c.opcode) ∧ cycle p c bus g = g.respond .unsupportedOpcode none none) ∨
    (∃ i, decode c = .ok i ∧ cycle p c bus g = perform p i bus g.take ∧ Effect bus g.take (cycle p c bus g)) := by
  unfold cycle
  cases hd : decode c with
  | ok i => exact .inr ⟨i, rfl, rfl, perform_cases hp i bus g.take⟩
  | error r => obtain rfl := decode_error hd; exact .inl ⟨rfl, rfl⟩

/-- A run of one step more (Host/Core.lean). -/
theorem run_succ (M : Host.Core) {n : Nat} {s s' : M.State} (h : M.step s = .next s') :
    M.run (n + 1) s = M.run n s' := by
  simp only [Host.Core.run, h]

/-- A command is offered only while `BUSY` is clear, and it is the first to have arrived. -/
theorem State.offer_eq_command {s : State} {c : Cmd} {rest : List Cmd} :
    s.offer = .command c rest ↔ s.busy = false ∧ s.pending = c :: rest := by
  unfold State.offer
  cases s.busy <;> cases s.pending <;> simp

end Sys2Proof.Machine
end

