-- ==== Sys2Proof/Tests/Slice0.lean ====
section
/-! SUPPORT. Tests: words and results taken from spec/95_test_vectors.md, the examples of the opcode rules and the
encoding rules; and, for each obligation with hypotheses, a witness that meets them. -/

open Sys2Proof Sys2Proof.Machine

namespace Sys2Proof.Tests

/-! ### Well-formedness: each check has a term it refuses (R57, R92) -/

theorem test_wrLo_over_wide_is_ill_formed : (Instr.genWrLo 0x0010 0x0100).wellFormed .off = false := by decide
theorem test_wrHi_over_wide_is_ill_formed : (Instr.genWrHi 0x0010 0xCD00).wellFormed .off = false := by decide
theorem test_setAddr_over_wide_is_ill_formed_under_on :
    (Instr.genSetAddr 0x3000 0x0080).wellFormed .on = false := by decide
theorem test_largest_fields_are_well_formed :
    (Instr.genWrLo 0xFFFF 0x00FF).wellFormed .off = true ∧ (Instr.genWrHi 0xFFFF 0x00FF).wellFormed .off = true ∧
    (Instr.genSetAddr 0xFFFF 0x007F).wellFormed .on = true ∧ (Instr.genSetAddr 0xFFFF 0xFFFF).wellFormed .off = true ∧
    (Instr.genRomRd 0xFFFF 0xFFFF).wellFormed .off = true ∧ (Instr.genSetBank 0xFFFF 0xFFFF).wellFormed .off = true ∧
    (Instr.genFlashWrAddroff 0xFFFF 0xFFFF).wellFormed .off = true ∧
    (Instr.genSstFlashWrAddroff 0xFFFF 0xFFFF).wellFormed .off = true := by decide

/-! ### Decoding words written out from R51, R52 and the vectors -/

theorem test_decode_setAddr :
    decode (Cmd.ofWord 0x0020000000#40) = .ok (.genSetAddr 0x2000 0x0000) := rfl
theorem test_decode_romRd :
    decode (Cmd.ofWord 0x010200FFFF#40) = .ok (.genRomRd 0x0200 0xFFFF) := rfl
theorem test_decode_setBank :
    decode (Cmd.ofWord 0x02FFFF1234#40) = .ok (.genSetBank 0xFFFF 0x1234) := rfl
theorem test_decode_wrLo :
    decode (Cmd.ofWord 0b0000001100000000000100000000000010101011#40) = .ok (.genWrLo 0x0010 0x00AB) := rfl
theorem test_decode_wrHi :
    decode (Cmd.ofWord 0b0000010000000000000100000000000011001101#40) = .ok (.genWrHi 0x0010 0x00CD) := rfl
theorem test_decode_flashWr :
    decode (Cmd.ofWord 0x0512340004#40) = .ok (.genFlashWrAddroff 0x1234 0x0004) := rfl
theorem test_decode_sstFlashWr :
    decode (Cmd.ofWord 0x06BEEF0002#40) = .ok (.genSstFlashWrAddroff 0xBEEF 0x0002) := rfl

theorem test_decode_rejects_by_name :
    decode (Cmd.ofWord 0x0700000000#40) = .error (.unsupportedOpcode 0x07) ∧
    decode (Cmd.ofWord 0x8000000000#40) = .error (.unsupportedOpcode 0x80) ∧
    decode (Cmd.ofWord 0x8101040000#40) = .error (.unsupportedOpcode 0x81) ∧
    decode (Cmd.ofWord 0xFF00000000#40) = .error (.unsupportedOpcode 0xFF) := ⟨rfl, rfl, rfl, rfl⟩

theorem test_encode_words :
    (encode (.genFlashWrAddroff 0x1234 0x0004)).word = 0x0512340004#40 ∧
    (encode (.genWrHi 0x0010 0x00CD)).word = 0x04001000CD#40 := by decide

theorem test_table_words :
    decodeTableWord 40 0x03001000AB = some (.genWrLo 0x0010 0x00AB) ∧
    decodeTableWord 40 0x0700000000 = none ∧
    decodeTableWord 16 0x1234 = some (.genSetAddr 0x0000 0x1234) := ⟨rfl, rfl, rfl⟩

theorem test_written_form :
    (Instr.genSetAddr 0x2000 0).written = "GEN_SET_ADDR(0x2000)" ∧
    (Instr.genRomRd 0x0104 0).written = "GEN_ROM_RD(addr=0x0104)" ∧
    (Instr.genFlashWrAddroff 0x1234 0x0004).written = "GEN_FLASH_WR_ADDROFF(data=0x1234, offset=0x0004)" ∧
    (Instr.genRomRd 0x0200 0xFFFF).written = "OP(0x0001, 0x0200, 0xFFFF)" := by decide

/-! ### The vectors of section 2, at their test values: flags in bits 7 and 8 -/

/-- The test values of 95_test_vectors.md: `LO_MEM_BIT = 7`, `TIME_BIT = 8`. -/
def testParams : Params where
  flags := ⟨0, 0⟩
  rangePolicy := .reject
  rdOrder := .little
  miscHighMux := .off

/-- One instruction at these parameters, with the inputs its state supplies. -/
def ran (p : Params) (i : Instr) (s : State) : State := s.serve (perform p i)

/-- A session at the start of a vector: registers, and a `RefCart` with the listed cells. -/
def cartState (low high : Word) (mem : Memory) : State := { State.resetWith low high with refCart := true, mem := mem }

/-- The same, whose Bus Driver fails its next request. -/
def failingState (low high : Word) : State :=
  { State.resetWith low high with answers := [⟨false, 0x0000⟩], refCart := true }

/-- The word 0x1122 at word address 0x010010, as in section 2.3. -/
def mem1122 : Memory := [(0x020020, 0x22), (0x020021, 0x11)]

theorem test_flag_positions : loMemBit testParams.flags = 7 ∧ timeBit testParams.flags = 8 ∧
    loMemBit ⟨8, 7⟩ = 15 ∧ timeBit ⟨8, 7⟩ = 14 ∧ timeBit ⟨0, 7⟩ = 15 := by decide

theorem test_setAddr : (ran testParams (.genSetAddr 0x2000 0x0000) (State.resetWith 0x1111 0x0001)).currentAddress = 0x012000 ∧
    (ran testParams (.genSetAddr 0x2000 0x0000) (State.resetWith 0x1111 0x0001)).responses = [⟨.ok, none⟩] := by decide

theorem test_setAddr_under_misc_high_mux :
    (ran { testParams with miscHighMux := .on } (.genSetAddr 0x3000 0x0005) (State.resetWith 0x2000 0x0181)).high = 0x0185 ∧
    (ran { testParams with miscHighMux := .on } (.genSetAddr 0x3000 0x0080) (State.resetWith 0x2000 0x0181)).responses
      = [⟨.operandOutOfRange, none⟩] := by decide

theorem test_setBank : (ran testParams (.genSetBank 0xFFFF 0) (State.resetWith 0x2000 0x0001)).currentAddress = 0x7F2000 ∧
    (ran testParams (.genSetBank 0xFFFF 0) (State.resetWith 0x2000 0x0001)).high = 0xFFFF := by decide

theorem test_setBank_flags :
    loMemLevel testParams.flags (ran testParams (.genSetBank 0x0080 0) (State.resetWith 0x2000 0x0001)).high = .high ∧
    timeLevel testParams.flags (ran testParams (.genSetBank 0x0080 0) (State.resetWith 0x2000 0x0001)).high = .low := by decide

theorem test_romRd :
    (ran testParams (.genRomRd 0x0010 0) (cartState 0x0000 0x0001 mem1122)).responses = [⟨.ok, some 0x1122⟩] ∧
    (ran testParams (.genRomRd 0x0010 0) (cartState 0x0000 0x0001 mem1122)).history =
      [⟨⟨.romRd, 0x010010, .low, .low, ⟨.low, .low, .high, .high⟩, ⟨none, none⟩, 0b00⟩, ⟨true, 0x1122⟩⟩] := by decide

theorem test_romRd_bus_fails :
    (ran testParams (.genRomRd 0x4000 0) (failingState 0x2000 0x0001)).responses = [⟨.busFault, none⟩] ∧
    (ran testParams (.genRomRd 0x4000 0) (failingState 0x2000 0x0001)).low = 0x2000 ∧
    (ran testParams (.genRomRd 0x4000 0) (failingState 0x2000 0x0001)).history.length = 1 := by decide

theorem test_wrLo :
    (ran testParams (.genWrLo 0x0010 0x00AB) (cartState 0x0000 0x0001 mem1122)).mem = [(0x020020, 0xAB), (0x020021, 0x11)] ∧
    (ran testParams (.genWrLo 0x0010 0x0000) (cartState 0x0000 0x0001 mem1122)).mem = [(0x020021, 0x11)] ∧
    (ran testParams (.genWrLo 0x0010 0x00AB) (cartState 0x0000 0x0001 mem1122)).low = 0x0010 := by decide

theorem test_wrLo_over_wide :
    (ran testParams (.genWrLo 0x3000 0x01AB) (State.resetWith 0x2000 0x0001)).responses = [⟨.operandOutOfRange, none⟩] ∧
    (ran testParams (.genWrLo 0x3000 0x01AB) (State.resetWith 0x2000 0x0001)).low = 0x2000 ∧
    (ran testParams (.genWrLo 0x3000 0x01AB) (State.resetWith 0x2000 0x0001)).history = [] := by decide

theorem test_wrHi :
    (ran testParams (.genWrHi 0x0010 0x00CD) (cartState 0x0000 0x0001 mem1122)).mem = [(0x020020, 0x22), (0x020021, 0xCD)] ∧
    ((ran testParams (.genWrHi 0x0010 0x00CD) (cartState 0x0000 0x0001 mem1122)).history.map (·.req.strobes)) =
      [⟨.low, .low, .high, .low⟩] := by decide

theorem test_wrHi_truncate :
    (ran { testParams with rangePolicy := .truncate } (.genWrHi 0x0010 0xFFCD) (cartState 0x0000 0x0001 mem1122)).mem =
      [(0x020020, 0x22), (0x020021, 0xCD)] := by decide

theorem test_flashWr_carries_into_the_bank :
    (ran testParams (.genFlashWrAddroff 0xF00D 0x0001) (cartState 0xFFFF 0x0001 [])).mem = [(0x040000, 0x0D), (0x040001, 0xF0)] ∧
    (ran testParams (.genFlashWrAddroff 0xF00D 0x0001) (cartState 0xFFFF 0x0001 [])).currentAddress = 0x01FFFF := by decide

theorem test_flashWr_wraps :
    ((ran testParams (.genFlashWrAddroff 0xBEEF 0xFFFF) (cartState 0xFFFF 0x007F [])).history.map (·.req.addr)) = [0x00FFFE] := by decide

theorem test_sstFlashWr :
    (ran testParams (.genSstFlashWrAddroff 0x0BAD 0xFFFF) (cartState 0xFFFF 0x0181 [])).history =
      [⟨⟨.sstFlashWr, 0x02FFFE, .high, .high, ⟨.low, .low, .high, .low⟩, ⟨some 0xAD, some 0x0B⟩, 0b11⟩,
        ⟨true, 0x0000⟩⟩] := by decide

theorem test_sstFlashWr_example :
    (ran testParams (.genSstFlashWrAddroff 0xBEEF 0x0002) (cartState 0x0100 0x0000 [])).mem = [(0x000204, 0xEF), (0x000205, 0xBE)] := by
  decide

theorem test_read_bytes :
    (ran testParams (.genRomRd 0x0010 0) (cartState 0 1 mem1122)).sent testParams = [(0, [0x22, 0x11])] ∧
    (ran testParams (.genRomRd 0x0010 0) (cartState 0 1 mem1122)).sent { testParams with rdOrder := .big } = [(0, [0x11, 0x22])] := by
  decide

/-! ### One step -/

/-- A session with these commands offered. -/
def offered (s : State) (cs : List Cmd) : State := { s with pending := cs }

theorem test_step_from_reset_runs_the_word :
    step (State.reset.withFetchWord 40 0x02FFFF1234) =
      .next { State.reset with high := 0xFFFF, highWritten := true, k := 1, responses := [⟨.ok, none⟩] } := rfl

theorem test_step_illegal_opcode :
    step (offered (State.resetWith 0x2000 0x0001) [⟨0x81, 0x0104, 0x0000⟩]) =
      .next { State.resetWith 0x2000 0x0001 with k := 1, responses := [⟨.unsupportedOpcode, none⟩] } := rfl

theorem test_step_takes_the_oldest :
    step (offered (State.resetWith 0x2000 0x0000) [⟨0x02, 0x0001, 0⟩, ⟨0x00, 0xFFFF, 0⟩]) =
      .next { State.resetWith 0x2000 0x0001 with
        highWritten := true, k := 1, pending := [⟨0x00, 0xFFFF, 0⟩], responses := [⟨.ok, none⟩] } := rfl

/-- Program P3 of section 3, its failed and repeated read: the run as R171 has it, under an oracle given as an argument. -/
theorem test_run_under_an_oracle :
    let bus : List Transfer → BusReq → BusAnswer := fun past _ => if past = [] then ⟨false, 0⟩ else ⟨true, 0xCAFE⟩
    let t := session testParams bus 0xDEAD 0xBEEF
      [⟨2, 0x0001, 0⟩, ⟨0, 0x2000, 0⟩, ⟨1, 0x4000, 0⟩, ⟨1, 0x4000, 0⟩, ⟨0xFF, 0, 0⟩]
    t.gendec.low = 0x4000 ∧ t.responses =
      [⟨.ok, none⟩, ⟨.ok, none⟩, ⟨.busFault, none⟩, ⟨.ok, some 0xCAFE⟩, ⟨.unsupportedOpcode, none⟩] ∧
    t.history.map (·.req.addr) = [0x014000, 0x014000] := by decide

/-! ### Witnesses: hypotheses that a step or an instruction ends in a next state

They are met for every state and instruction, so one theorem each serves all the statements of that shape. -/

theorem test_witness_exec_next (s : State) :
    ∀ i ∈ [Instr.genSetAddr 0x2000 0, .genRomRd 0x0104 0, .genSetBank 0x0001 0, .genWrLo 0x0010 0x00AB,
        .genWrHi 0x0010 0x00CD, .genFlashWrAddroff 0x1234 4, .genSstFlashWrAddroff 0xBEEF 2],
      exec i s = .next (ran params i s) := fun i _ => exec_eq i s

/-- A session after reset with GEN_SET_BANK and GEN_SET_ADDR offered. -/
def twoSetters (low high : Word) : State :=
  offered (State.resetWith low high) [⟨0x02, 0x0001, 0⟩, ⟨0x00, 0x2000, 0⟩]

theorem test_witness_step_from_inv : (twoSetters 0xDEAD 0xBEEF).Inv ∧ ∃ t, step (twoSetters 0xDEAD 0xBEEF) = .next t :=
  ⟨⟨rfl, rfl, rfl, by decide, by decide, by decide, rfl⟩, _, rfl⟩

theorem test_witness_step_decodes : (twoSetters 0 0).busy = false ∧
    (twoSetters 0 0).pending = ⟨0x02, 0x0001, 0⟩ :: [⟨0x00, 0x2000, 0⟩] ∧
    decode ⟨0x02, 0x0001, 0⟩ = .ok (.genSetBank 0x0001 0) := ⟨rfl, rfl, rfl⟩

theorem test_witness_illegal_opcodes :
    (offered (State.resetWith 0 0) [⟨7, 0, 0⟩]).pending = ⟨7, 0, 0⟩ :: [] ∧ 7 ≤ (7 : Byte).toNat ∧
    (offered (State.resetWith 0 0) [⟨255, 0, 0⟩]).pending = ⟨255, 0, 0⟩ :: [] ∧ 7 ≤ (255 : Byte).toNat ∧
    decode ⟨7, 0, 0⟩ = .error (.unsupportedOpcode 7) ∧ ¬ 7 ≤ (6 : Byte).toNat := by decide

theorem test_witness_nothing_taken :
    (State.resetWith 0 0).pending = [] ∧ ({ State.resetWith 0 0 with busy := true } : State).busy = true := ⟨rfl, rfl⟩

/-! ### Witnesses: fields at the ends of their ranges -/

theorem test_witness_byte_bounds : (0x00FF : Word).toNat ≤ 0x00FF ∧ 0x00FF < (0x0100 : Word).toNat := by decide

theorem test_witness_misc_high_mux :
    ({ testParams with miscHighMux := .on } : Params).miscHighMux = .on ∧
    ({ testParams with miscHighMux := .on } : Params).rangePolicy = .reject ∧
    ({ testParams with miscHighMux := .on, rangePolicy := .truncate } : Params).rangePolicy = .truncate ∧
    128 ≤ (128 : Word).toNat ∧ (127 : Word).toNat < 128 := by decide

theorem test_witness_offset_bounds :
    (0xFFFE : Word).toNat + (0x0001 : Word).toNat < 65536 ∧ 65536 ≤ (0xFFFF : Word).toNat + (0x0001 : Word).toNat ∧
    (0xFF81 : Word).toNat % 128 = (0x0001 : Word).toNat % 128 := by decide

/-! ### Witnesses: answers of the Bus Driver -/

theorem test_witness_answer_ok (req : BusReq) :
    ({ State.resetWith 0 0 with answers := [⟨true, 0x1122⟩] } : State).busAnswer req = ⟨true, 0x1122⟩ := rfl

/-- The reference cartridge's branch of the write statements: no answer fixed in advance, and it answers `ok`. -/
theorem test_witness_answer_refCart (req : BusReq) :
    (cartState 0 0 []).answers = [] ∧ (cartState 0 0 []).refCart = true ∧ Memory.wf (cartState 0 0 []).mem = true ∧
    ((cartState 0 0 []).busAnswer req).ok = true := by
  refine ⟨rfl, rfl, rfl, ?_⟩
  show (refCartAnswer [] req).ok = true
  unfold refCartAnswer
  cases req.kind <;> rfl

/-- A request that fails, for each data opcode. -/
theorem test_witness_failed_request :
    ∀ i ∈ [Instr.genRomRd 0x4000 0, .genWrLo 0x10 0xFF, .genWrHi 0x10 0xFF, .genFlashWrAddroff 0x1234 4,
        .genSstFlashWrAddroff 0xBEEF 2],
      ∃ req, requestOf params i (failingState 0x2000 0x0001).toGendec = some req ∧
        ((failingState 0x2000 0x0001).busAnswer req).ok = false := by
  intro i hi
  fin_cases hi <;> exact ⟨_, rfl, rfl⟩

/-- A request that succeeds, for the last clause of the commit rule. -/
theorem test_witness_successful_request :
    ∃ req, requestOf params (.genRomRd 0x0010 0) (cartState 0 1 mem1122).toGendec = some req ∧
      ((cartState 0 1 mem1122).busAnswer req).ok = true := ⟨_, rfl, rfl⟩

/-- A command that ends in each non-OK status GENDEC gives. -/
theorem test_witness_each_raise :
    (∃ t, step (offered (State.resetWith 0 0) [⟨7, 0, 0⟩]) = .next t ∧ t.lastStatus = some .unsupportedOpcode) ∧
    (∃ t, step (offered (State.resetWith 0 0) [⟨3, 0, 0x0100⟩]) = .next t ∧
      t.lastStatus = some .operandOutOfRange) ∧
    (∃ t, step (offered (failingState 0 0) [⟨1, 0, 0⟩]) = .next t ∧ t.lastStatus = some .busFault) :=
  ⟨⟨_, rfl, rfl⟩, ⟨_, rfl, rfl⟩, ⟨_, rfl, rfl⟩⟩

theorem test_witness_offer :
    (offered (State.resetWith 0 0) [⟨1, 0x0104, 0⟩]).offer = .command ⟨1, 0x0104, 0⟩ [] ∧
    (State.resetWith 0 0).offer = .nothing := ⟨rfl, rfl⟩

/-- A dutiful session: GEN_SET_BANK, then GEN_ROM_RD. -/
def dutiful (low high : Word) : State :=
  offered (State.resetWith low high) [⟨0x02, 0x0001, 0⟩, ⟨0x01, 0x0104, 0⟩]

/-- Two oracles that differ, but not at the request of this read. -/
theorem test_witness_two_oracles :
    ∃ bus bus' : BusReq → BusAnswer, bus ≠ bus' ∧
      (∀ req, requestOf params (.genRomRd 0x0010 0) (Gendec.resetWith 0 1) = some req → bus req = bus' req) ∧
      ∀ req, requestOf params (.genSetAddr 0x0010 0) (Gendec.resetWith 0 1) = some req → bus req = bus' req := by
  refine ⟨fun _ => ⟨true, 0⟩, fun r => ⟨r.kind = .romRd, 0⟩, fun h => ?_, fun req h => ?_, fun req h => ?_⟩
  · have := congrFun h ⟨.wrLo, 0, .low, .low, strobesIdle, lanesRead, 0⟩
    revert this
    decide
  · cases h; rfl
  · cases h

/-- The run statements: GENDEC is not busy, nothing answers but the free oracle, and there are commands to take. -/
theorem test_witness_free_run : (dutiful 0 0).busy = false ∧ (dutiful 0 0).answers = [] ∧
    (dutiful 0 0).refCart = false ∧ (dutiful 0 0).pending.length = 2 := ⟨rfl, rfl, rfl, rfl⟩

/-- The first and the last opcode that decode to none. -/
theorem test_witness_unsupported : decodeOpcode 7 = none ∧ decodeOpcode 255 = none := ⟨rfl, rfl⟩

/-! ### Witnesses: pairs of states -/

/-- Bits 7, 8 and 9 of HIGH are three places above the bank; a flag that is not in one of them does not read it. -/
theorem level_unmoved (n : Nat) (k : Nat) (h : n ≠ k) :
    levelOfBit ((0x0001#16).getLsbD n) = levelOfBit ((0x0001#16 ||| BitVec.twoPow 16 k).getLsbD n) := by
  simp [BitVec.getLsbD_twoPow, h.symm]

/-- Whatever the flag positions are, two different values of HIGH drive the same lines. -/
theorem test_witness_sameLines : ∃ h : Word, h ≠ 0x0001 ∧ sameLines params.flags 0x0001 h := by
  have free : ∃ k ∈ [7, 8, 9], loMemBit params.flags ≠ k ∧ timeBit params.flags ≠ k := by
    generalize loMemBit params.flags = a
    generalize timeBit params.flags = b
    simp only [List.mem_cons, List.not_mem_nil, or_false, exists_eq_or_imp, exists_eq_left]
    omega
  obtain ⟨k, hk, ha, hb⟩ := free
  have hne : 0x0001#16 ||| BitVec.twoPow 16 k ≠ 0x0001#16 ∧
      bankOf 0x0001#16 = bankOf (0x0001#16 ||| BitVec.twoPow 16 k) := by
    fin_cases hk <;> decide
  exact ⟨_, hne.1, hne.2, level_unmoved _ k ha, level_unmoved _ k hb⟩

theorem test_witness_two_draws :
    State.SameButUnwritten (dutiful 0xDEAD 0xBEEF) (dutiful 0x0000 0x0000) ∧ State.DutyMetFor 2 (dutiful 0xDEAD 0xBEEF) := by
  refine ⟨⟨rfl, fun h => absurd h (by decide), fun h => absurd h (by decide)⟩, rfl, fun t ht => ?_⟩
  cases ht
  exact ⟨rfl, fun _ _ => trivial⟩

/-- A command list of the shape of the low-byte statement, with one high-byte write out of range. -/
theorem test_witness_low_byte_list :
    let s := offered (cartState 0 1 [])
      [⟨3, 0x10, 0xAB⟩, ⟨4, 0x10, 0xCD⟩, ⟨4, 0x11, 0xFFFF⟩, ⟨1, 0x10, 0⟩, ⟨0, 0, 0⟩]
    s.busy = false ∧ s.answers = [] ∧ s.refCart = true ∧ Memory.wf s.mem = true ∧ (0xAB : Word).toNat ≤ 0x00FF ∧
    s.pending = encode (.genWrLo 0x10 0xAB) ::
      ([((0x10 : Word), (0xCD : Word)), (0x11, 0xFFFF)].map fun h => encode (.genWrHi h.1 h.2)) ++
      encode (.genRomRd 0x10 0) :: [⟨0, 0, 0⟩] := by decide

/-- A cartridge with something in it is canonical: the premise of the reset and the cartridge statements. -/
theorem test_witness_canonical_memory : Memory.wf mem1122 = true ∧ (cartState 0 1 mem1122).mem = mem1122 := by decide

end Sys2Proof.Tests
end

/-! SUPPORT. Commands with an illegal opcode: what the decoder, one command and one step make of them (30_encoding.md R55,
60_exceptions.md R137). -/

namespace Sys2Proof

/-- The closed map of R54 ends at 6: exactly the opcodes from 7 on have no name (R55). -/
theorem decodeOpcode_eq_none_iff {b : Byte} : decodeOpcode b = none ↔ 7 ≤ b.toNat := by
  unfold decodeOpcode
  split
  case h_8 => simp only [true_iff, imp_false] at *; omega
  all_goals simp [*]

/-- A command whose opcode has no name is rejected by that opcode, whatever its fields hold (R55). -/
theorem decode_of_decodeOpcode_eq_none {c : Cmd} (h : decodeOpcode c.opcode = none) :
    decode c = .error (.unsupportedOpcode c.opcode) := by
  unfold decode
  rw [h]

namespace Machine

/-- A rejected command is answered with `UnsupportedOpcode` and makes no request, under any parameters and oracle (R137). -/
theorem cycle_of_decodeOpcode_eq_none {c : Cmd} (h : decodeOpcode c.opcode = none) (p : Params) (bus : BusReq → BusAnswer)
    (g : Gendec) : cycle p c bus g = g.respond .unsupportedOpcode none none := by
  unfold cycle
  rw [decode_of_decodeOpcode_eq_none h]
  rfl

/-- Settles O6: the head command is taken (`step_eq_cycle`), has no name, and so is only answered. -/
theorem illegalOpcodeIsAnsweredWithNoEffect : Obligations.IllegalOpcodeIsAnsweredWithNoEffect := by
  intro s c rest hbusy hpending hopcode
  have taken : s.offer = .command c rest := State.offer_eq_command.2 ⟨hbusy, hpending⟩
  have unnamed : decodeOpcode c.opcode = none := decodeOpcode_eq_none_iff.2 hopcode
  rw [step_eq_cycle taken, cycle_of_decodeOpcode_eq_none unnamed]
  rfl

end Machine
end Sys2Proof

/-! SUPPORT. The request a meaning makes is the one the tables of 40_dispatch.md give its instruction (R57, R75 to R77). -/

namespace Sys2Proof.Machine

/-! ### The multiplexers, on numbers and on bit vectors -/

/-- The address of opcodes 1, 3 and 4 (R75). -/
theorem ofNat_bankAddr (h o : Word) : BitVec.ofNat 23 (h.toNat % 128 * 65536 + o.toNat) = bankAddr h o := by
  rw [← bankAddr_toNat, BitVec.ofNat_toNat, BitVec.setWidth_eq]

/-- The address of the flash opcodes (R75, R120). -/
theorem ofNat_effectiveAddr (h l m : Word) :
    BitVec.ofNat 23 ((h.toNat % 128 * 65536 + l.toNat + m.toNat) % 2 ^ 23) = effectiveAddr h l m := by
  rw [← bankAddr_toNat]
  apply BitVec.eq_of_toNat_eq
  simp [effectiveAddr]

/-- The byte for the low lane (R76). -/
theorem ofNat_low_byte (v : Word) : BitVec.ofNat 8 (v.toNat % 256) = v.extractLsb' 0 8 := by
  apply BitVec.eq_of_toNat_eq
  simp

/-- The byte for the high lane of a word (R76). -/
theorem ofNat_high_byte (v : Word) : BitVec.ofNat 8 (v.toNat / 256) = v.extractLsb' 8 8 := by
  apply BitVec.eq_of_toNat_eq
  simp [Nat.shiftRight_eq_div_pow]

/-! ### The range stage (R71, stage 2) -/

/-- A field that is a don't-care passes (R56). -/
theorem inRange_of_no_width {p : Params} {op : Opcode} (h : declaredMiscWidth p.miscHighMux op = none) (m : Word) :
    Stages.inRange p op m = true := by
  unfold Stages.inRange
  cases p.rangePolicy with
  | truncate => rfl
  | reject => simp only [h]

/-- A field of a declared width passes when its check does (R57, R58). -/
theorem inRange_of_width {p : Params} {op : Opcode} {w : Nat} (h : declaredMiscWidth p.miscHighMux op = some w)
    (m : Word) : Stages.inRange p op m = fieldInRange p w m := by
  cases hp : p.rangePolicy with
  | truncate => simp only [fieldInRange_truncate hp, Stages.inRange, hp]
  | reject => simp only [fieldInRange_reject hp, Stages.inRange, hp, h]

/-- A field of declared width 16 always passes: the field is no wider (R57). -/
@[simp] theorem fieldInRange_width_16 (p : Params) (v : Word) : fieldInRange p 16 v = true := by
  cases hp : p.rangePolicy with
  | truncate => exact fieldInRange_truncate hp 16 v
  | reject => exact (fieldInRange_reject hp 16 v).trans (decide_eq_true v.isLt)

/-! ### The request of each instruction -/

section
variable (p : Params) (o m : Word) (g : Gendec)

@[simp] theorem requestOf_genSetAddr : requestOf p (.genSetAddr o m) g = none := ite_self _

@[simp] theorem requestOf_genSetBank : requestOf p (.genSetBank o m) g = none := ite_self _

@[simp] theorem requestOf_genRomRd : requestOf p (.genRomRd o m) g = some (romRdReq p o g) := by
  refine (if_pos (inRange_of_no_width rfl m)).trans ?_
  simp only [romRdReq, ← ofNat_bankAddr]
  rfl

@[simp] theorem requestOf_genWrLo :
    requestOf p (.genWrLo o m) g = if fieldInRange p 8 m then some (wrLoReq p o m g) else none := by
  simp only [wrLoReq, lanesLow, ← ofNat_bankAddr, ← ofNat_low_byte, ← inRange_of_width (op := .genWrLo) rfl]
  rfl

@[simp] theorem requestOf_genWrHi :
    requestOf p (.genWrHi o m) g = if fieldInRange p 8 m then some (wrHiReq p o m g) else none := by
  simp only [wrHiReq, lanesHigh, ← ofNat_bankAddr, ← ofNat_low_byte, ← inRange_of_width (op := .genWrHi) rfl]
  rfl

@[simp] theorem requestOf_genFlashWrAddroff :
    requestOf p (.genFlashWrAddroff o m) g = some (flashWrReq p o m g) := by
  refine (if_pos ((inRange_of_width rfl m).trans (fieldInRange_width_16 p m))).trans ?_
  simp only [flashWrReq, lanesWord, ← ofNat_effectiveAddr, ← ofNat_low_byte, ← ofNat_high_byte]
  rfl

@[simp] theorem requestOf_genSstFlashWrAddroff :
    requestOf p (.genSstFlashWrAddroff o m) g = some (sstFlashWrReq p o m g) := by
  refine (if_pos ((inRange_of_width rfl m).trans (fieldInRange_width_16 p m))).trans ?_
  simp only [sstFlashWrReq, lanesWord, ← ofNat_effectiveAddr, ← ofNat_low_byte, ← ofNat_high_byte]
  rfl

end

/-- `BUSY` has no part in a request. -/
@[simp] theorem requestOf_take (p : Params) (i : Instr) (g : Gendec) : requestOf p i g.take = requestOf p i g := rfl

/-! ### The transfer of each instruction -/

/-- A request is recorded with its answer, whatever the answer is (R45). -/
@[simp] theorem Gendec.access_transfer (g : Gendec) (req : BusReq) (commit : Gendec → Gendec)
    (data : BusAnswer → Option Word) (bus : BusReq → BusAnswer) :
    (g.access req commit data bus).transfer = some ⟨req, bus req⟩ := by
  obtain ⟨_, e⟩ | ⟨_, e⟩ := g.access_cases req commit data bus
  · rw [e, Gendec.respond_transfer]
  · rw [e, Gendec.respond_transfer]

/-- A command behind the range stage makes its request only when in range. -/
theorem Gendec.inRangeThen_access_transfer (c : Bool) (g : Gendec) (req : BusReq) (commit : Gendec → Gendec)
    (data : BusAnswer → Option Word) (bus : BusReq → BusAnswer) :
    (g.inRangeThen c (Gendec.access req commit data bus)).transfer =
      (if c then some req else none).map fun r => ⟨r, bus r⟩ := by
  cases c with
  | false => rfl
  | true => exact g.access_transfer req commit data bus

/-- GEN_SET_ADDR makes no request under either value of `MISC_HIGH_MUX` (R31, R92). -/
@[simp] theorem setAddr_transfer (p : Params) (o m : Word) (g : Gendec) : (setAddr p o m g).transfer = none := by
  unfold setAddr
  cases p.miscHighMux with
  | off => rfl
  | on => cases fieldInRange p 7 m <;> rfl

/-- The transfer an instruction makes is its own request with its answer, or none where it has no request. -/
theorem perform_transfer (p : Params) (i : Instr) (bus : BusReq → BusAnswer) (g : Gendec) :
    (perform p i bus g).transfer = (requestOf p i g).map fun req => ⟨req, bus req⟩ := by
  cases i with
  | genSetAddr o m => rw [requestOf_genSetAddr]; exact setAddr_transfer p o m g
  | genSetBank o m => rw [requestOf_genSetBank]; rfl
  | genRomRd o m => rw [requestOf_genRomRd]; exact g.access_transfer ..
  | genWrLo o m => rw [requestOf_genWrLo]; exact g.inRangeThen_access_transfer ..
  | genWrHi o m => rw [requestOf_genWrHi]; exact g.inRangeThen_access_transfer ..
  | genFlashWrAddroff o m => rw [requestOf_genFlashWrAddroff]; exact g.access_transfer ..
  | genSstFlashWrAddroff o m => rw [requestOf_genSstFlashWrAddroff]; exact g.access_transfer ..

/-- A transfer that an instruction made tells the instruction's request. -/
theorem requestOf_of_perform_transfer {p : Params} {i : Instr} {bus : BusReq → BusAnswer} {g : Gendec} {x : Transfer}
    (h : (perform p i bus g).transfer = some x) : requestOf p i g = some x.req := by
  rw [perform_transfer, Option.map_eq_some_iff] at h
  obtain ⟨req, hreq, rfl⟩ := h
  exact hreq

end Sys2Proof.Machine

/-! SUPPORT. Raising a status (60_exceptions.md R137 to R141): which commands do it and what it leaves. -/

namespace Sys2Proof.Machine

/-! ### What a command that raises gives -/

/-- An effect whose status is not OK answers and changes no register: out of range with no request, or `BusFault` with the
request that failed. -/
theorem Effect.raised {bus : BusReq → BusAnswer} {g : Gendec} {d : Done} (h : Effect bus g d)
    (notOk : d.response.status ≠ .ok) :
    d = g.respond .operandOutOfRange none none ∨
    ∃ req, (bus req).ok = false ∧ d = g.respond .busFault none (some ⟨req, bus req⟩) := by
  cases h with
  | outOfRange => exact .inl rfl
  | busFault req _ failed => exact .inr ⟨req, failed, rfl⟩
  | setLow | setHigh | moved | written => exact absurd rfl notOk

/-- A command that ends in another status than OK gives that status, no data and GENDEC as it was, with no request; but a
`BusFault` comes with the request of the command's instruction, which failed. -/
theorem cycle_raised {p : Params} (hp : p.miscHighMux = .off) {c : Cmd} {bus : BusReq → BusAnswer} {g : Gendec}
    (notOk : (cycle p c bus g).response.status ≠ .ok) :
    (∃ st, st ≠ .busFault ∧ cycle p c bus g = g.respond st none none) ∨
    ∃ i req, decode c = .ok i ∧ requestOf p i g = some req ∧ (bus req).ok = false ∧
      cycle p c bus g = g.respond .busFault none (some ⟨req, bus req⟩) := by
  obtain ⟨_, illegal⟩ | ⟨i, decoded, performed, effect⟩ := cycle_cases hp c bus g
  · exact .inl ⟨.unsupportedOpcode, by decide, illegal⟩
  · obtain outOfRange | ⟨req, failed, faulted⟩ := effect.raised notOk
    · exact .inl ⟨.operandOutOfRange, by decide, outOfRange⟩
    · have own : requestOf p i g.take = some req :=
        requestOf_of_perform_transfer (x := ⟨req, bus req⟩) (by rw [← performed, faulted]; rfl)
      exact .inr ⟨i, req, decoded, own, failed, faulted⟩

/-! ### What a raise leaves of the state -/

/-- A failed request uses up an answer fixed in advance and enters the history; it changes nothing else around GENDEC. -/
theorem Outside.collect_of_fault {e : Outside} {req : BusReq} (failed : (e.busAnswer req).ok = false) (x : Transfer) :
    e.collect x = { e with answers := e.answers.tail, history := e.history ++ [x] } := by
  calc e.collect x = { e with
          answers := e.answers.tail, mem := (e.collect x).mem, history := e.history ++ [x] } := rfl
    _ = _ := by rw [Outside.collect_mem_of_fault failed]

/-- A command that is taken and raises a status with no request. -/
theorem State.record_raise (st : Status) (rest : List Cmd) (s : State) :
    (s.take rest).record (s.toGendec.respond st none none) =
      { s with
        busy := false, inFlight := none, pending := rest, k := s.k + 1
        responses := s.responses ++ [⟨st, none⟩] } := rfl

/-- A command that is taken and raises `BusFault` for a request that failed. -/
theorem State.record_busFault {s : State} {req : BusReq} (failed : (s.busAnswer req).ok = false) (rest : List Cmd) :
    (s.take rest).record (s.toGendec.respond .busFault none (some ⟨req, s.busAnswer req⟩)) =
      { s with
        busy := false, inFlight := none, pending := rest, k := s.k + 1
        responses := s.responses ++ [⟨.busFault, none⟩]
        history := s.history ++ [⟨req, s.busAnswer req⟩], answers := s.answers.tail } := by
  have failed' : ((s.take rest).busAnswer req).ok = false := failed
  rw [State.record, Gendec.respond_transfer, Outside.after_some, Outside.collect_of_fault failed']
  rfl

/-- The newest status after a command is that command's. -/
theorem State.record_lastStatus (d : Done) (s : State) : (s.record d).lastStatus = some d.response.status := by
  simp [Outside.lastStatus, Outside.after_responses]

/-- Settles O32: the command taken raised (`cycle_raised`), with no request or with its own failed one, and each case
leaves the state the statement gives. -/
theorem raiseChangesNothingButTheRecord : Obligations.RaiseChangesNothingButTheRecord := by
  intro s t c rest st taken stepped last notOk
  obtain rfl := Host.Outcome.next.inj ((step_eq_cycle taken).symm.trans stepped)
  obtain rfl := Option.some.inj ((State.record_lastStatus _ _).symm.trans last)
  obtain ⟨st, notFault, raised⟩ | ⟨i, req, decoded, own, failed, faulted⟩ := cycle_raised rfl notOk
  · rw [raised]
    exact ⟨fun _ => State.record_raise st rest s, fun fault => absurd fault notFault⟩
  · rw [faulted]
    exact ⟨fun notFault => absurd rfl notFault,
      fun _ => ⟨i, req, decoded, own, failed, State.record_busFault failed rest⟩⟩

/-- Settles O53: the command is answered at decode (`cycle_of_decodeOpcode_eq_none`), so HIGH and LOW, and with them CA and
the flag lines, are not reached. -/
theorem unsupportedOpcodeLooksAtNothingElse : Obligations.UnsupportedOpcodeLooksAtNothingElse := by
  intro p c bus g unnamed
  rw [cycle_of_decodeOpcode_eq_none unnamed]
  exact ⟨rfl, rfl, rfl, rfl⟩

end Sys2Proof.Machine

/-! SUPPORT. The decoder and the encoder undo each other, on the three fields and on the command word (30_encoding.md R51,
R52, R54). -/

namespace Sys2Proof
open Laws.EncodesItsRow (word_toNat word_opcode matches_iff)

/-! ### The command word -/

/-- The fields of a command's word are the command (R51). -/
@[simp] theorem Cmd.ofWord_word (c : Cmd) : Cmd.ofWord c.word = c := by
  have operand : c.word.extractLsb' 16 16 = c.operand := by
    apply BitVec.eq_of_toNat_eq
    have := c.operand.isLt
    have := c.miscdata.isLt
    rw [BitVec.extractLsb'_toNat, word_toNat, Nat.shiftRight_eq_div_pow]
    omega
  have miscdata : c.word.extractLsb' 0 16 = c.miscdata := BitVec.extractLsb'_append_eq_right
  simp only [Cmd.ofWord, word_opcode, operand, miscdata]

/-- The word of the fields of a word is the word (R51). -/
@[simp] theorem Cmd.word_ofWord (w : BitVec 40) : (Cmd.ofWord w).word = w := by
  apply BitVec.eq_of_toNat_eq
  have := w.isLt
  simp only [word_toNat, Cmd.ofWord, BitVec.extractLsb'_toNat, Nat.shiftRight_eq_div_pow]
  omega

/-- A word written in the table's bits is read there as its own command (R51). -/
theorem tableCmd_word (c : Cmd) : tableCmd 40 c.word.toNat = c := by
  rw [tableCmd, Nat.mod_eq_of_lt c.word.isLt, BitVec.ofNat_toNat, BitVec.setWidth_eq, Cmd.ofWord_word]

/-! ### Decode after encode, and encode after decode -/

/-- The command of an instruction decodes to it. -/
@[simp] theorem decode_encode (i : Instr) : decode (encode i) = .ok i := by
  simp only [decode, encode, decodeOpcode_number, instr_eta]

/-- The opcode map is one to one: a value that has a name is that name's number (R52, R54). -/
theorem decodeOpcode_eq_some_iff {b : Byte} {op : Opcode} : decodeOpcode b = some op ↔ b = op.number := by
  constructor
  · cases op <;> revert b <;> decide
  · rintro rfl
    exact decodeOpcode_number op

/-- A command decodes to an instruction exactly when it is that instruction's command. -/
theorem decode_eq_ok_iff {c : Cmd} {i : Instr} : decode c = .ok i ↔ c = encode i := by
  constructor
  · intro h
    unfold decode at h
    split at h
    case h_1 op named =>
      obtain rfl := Except.ok.inj h
      simp only [encode, op_instr, operand_instr, miscdata_instr, ← decodeOpcode_eq_some_iff.1 named]
    case h_2 => cases h
  · rintro rfl
    exact decode_encode i

/-- A command is rejected exactly when its opcode has no name. -/
theorem decode_eq_error_iff {c : Cmd} :
    decode c = .error (.unsupportedOpcode c.opcode) ↔ decodeOpcode c.opcode = none := by
  unfold decode
  cases decodeOpcode c.opcode with
  | none => simp only
  | some op => simp only [reduceCtorEq]

/-- Every opcode name has a row in the table (R52). -/
theorem exists_opcodeRow (op : Opcode) : ∃ r ∈ opcodeRows, r.op = op := by
  cases op <;> decide

/-! ### The statements -/

/-- Settles O9, by the two round trips `decode_encode` and `Cmd.ofWord_word`. -/
theorem decodeOfEncodeIsTheInstruction : Obligations.DecodeOfEncodeIsTheInstruction := by
  intro i
  refine ⟨decode_encode i, Cmd.ofWord_word _, ?_⟩
  rw [decodeTableWord, tableCmd_word, decode_encode]

/-- Settles O10, by the other two round trips, `decode_eq_ok_iff` and `Cmd.word_ofWord`. -/
theorem decodedCommandIsItsEncoding : Obligations.DecodedCommandIsItsEncoding :=
  ⟨fun _ _ decoded => (decode_eq_ok_iff.1 decoded).symm, Cmd.word_ofWord⟩

/-- Settles O11: both sides say that the word's opcode byte is the name's number (`decodeOpcode_eq_some_iff`,
`matches_iff`), and each name has a row. -/
theorem decoderFollowsTheOpcodeTable : Obligations.DecoderFollowsTheOpcodeTable := by
  intro w op
  have belongs : ∀ r ∈ opcodeRows, (r.matches w = true ↔ (Cmd.ofWord w).opcode = r.op.number) := by
    intro r hr
    rw [← matches_iff _ r hr, Cmd.word_ofWord]
  rw [decodeOpcode_eq_some_iff]
  constructor
  · intro numbered
    obtain ⟨r, hr, rfl⟩ := exists_opcodeRow op
    exact ⟨r, hr, rfl, (belongs r hr).2 numbered⟩
  · rintro ⟨r, hr, rfl, matched⟩
    exact (belongs r hr).1 matched

/-- Settles O12: a command is rejected exactly when its opcode has no name, and those are the opcodes from 7 on. -/
theorem decoderRejectsExactlySevenTo255 : Obligations.DecoderRejectsExactlySevenTo255 :=
  fun _ => decode_eq_error_iff.trans decodeOpcode_eq_none_iff

/-- Settles O13: eight closed words, decoded by evaluation. -/
theorem writtenOutWordsDecode : Obligations.WrittenOutWordsDecode := by
  unfold Obligations.WrittenOutWordsDecode
  decide

end Sys2Proof

/-! SUPPORT. What one command does, by the stages of 40_dispatch.md R71: range, request, commit, response. Each instruction
is one commit and at most one request; how it ends is decided by the range stage and by the answer to that request. -/

namespace Sys2Proof.Machine

/-! ### The commit of each instruction (R78, R92) -/

/-- What an instruction stores when it ends OK. -/
def commitOf (p : Params) (i : Instr) (g : Gendec) : Gendec :=
  match i with
  | .genSetAddr o m =>
    match p.miscHighMux with
    | .off => g.setLow o
    | .on => (g.setLow o).setBankBits (m.extractLsb' 0 7)
  | .genRomRd o _ => g.setLow o
  | .genSetBank o _ => g.setHigh o
  | .genWrLo o _ => g.setLow o
  | .genWrHi o _ => g.setLow o
  | .genFlashWrAddroff _ _ => g
  | .genSstFlashWrAddroff _ _ => g

/-- Three opcodes store their operand in `LOW` only when their request succeeds (R100 to R102). -/
abbrev storesOperand (op : Opcode) : Prop := op = .genRomRd ∨ op = .genWrLo ∨ op = .genWrHi

section
variable {p : Params} (off : p.miscHighMux = .off) (i : Instr) (g : Gendec)
include off

/-- Under `MISC_HIGH_MUX = off`, `LOW` is stored by opcodes 0, 1, 3 and 4. -/
theorem commitOf_low :
    (commitOf p i g).low = if i.op = .genSetAddr ∨ storesOperand i.op then i.operand else g.low := by
  cases i <;> simp [commitOf, off, Instr.op, Instr.operand]

/-- Under `MISC_HIGH_MUX = off`, `HIGH` is stored by opcode 2 alone. -/
theorem commitOf_high : (commitOf p i g).high = if i.op = .genSetBank then i.operand else g.high := by
  cases i <;> simp [commitOf, off, Instr.op, Instr.operand]

/-- The ghost bit of `LOW` goes with the store. -/
theorem commitOf_lowWritten :
    (commitOf p i g).lowWritten = true ↔ g.lowWritten = true ∨ i.op = .genSetAddr ∨ storesOperand i.op := by
  cases i <;> simp [commitOf, off, storesOperand, Instr.op]

/-- The ghost bit of `HIGH` goes with the store. -/
theorem commitOf_highWritten :
    (commitOf p i g).highWritten = true ↔ g.highWritten = true ∨ i.op = .genSetBank := by
  cases i <;> simp [commitOf, off, Instr.op]

end

/-! ### The four ends of a command -/

/-- An instruction makes no request when it is out of range, and when it is an address-setting opcode (R31, R57). -/
theorem requestOf_eq_none_iff {p : Params} {i : Instr} {g : Gendec} :
    requestOf p i g = none ↔ Stages.inRange p i.op i.miscdata = false ∨ i.op.isData = false := by
  unfold requestOf Stages.request
  cases Stages.inRange p i.op i.miscdata <;> cases i.op <;> simp [Stages.kind, Opcode.isData]

/-- How an instruction ends, with what it leaves: out of range, with no request; an address-setting opcode, with no
request; a data opcode whose request fails; a data opcode whose request succeeds. -/
inductive Ended (p : Params) (i : Instr) (bus : BusReq → BusAnswer) (g : Gendec) : Done → Prop where
  | outOfRange (wide : Stages.inRange p i.op i.miscdata = false) (silent : requestOf p i g = none) :
      Ended p i bus g (g.respond .operandOutOfRange none none)
  | settled (fits : Stages.inRange p i.op i.miscdata = true) (setter : i.op.isData = false)
      (silent : requestOf p i g = none) : Ended p i bus g ((commitOf p i g).respond .ok none none)
  | failed (req : BusReq) (own : requestOf p i g = some req) (fault : (bus req).ok = false) :
      Ended p i bus g (g.respond .busFault none (some ⟨req, bus req⟩))
  | committed (req : BusReq) (own : requestOf p i g = some req) (ok : (bus req).ok = true) :
      Ended p i bus g ((commitOf p i g).respond .ok (Stages.okData i.op (bus req)) (some ⟨req, bus req⟩))

section
variable {p : Params} {i : Instr} {bus : BusReq → BusAnswer} {g : Gendec}

/-- A data opcode that asks the Bus Driver ends by the answer. -/
theorem Ended.of_access {req : BusReq} (own : requestOf p i g = some req) {commit : Gendec → Gendec}
    (stores : (commit (g.issue req)).release = (commitOf p i g).release) :
    Ended p i bus g (g.access req commit (Stages.okData i.op) bus) := by
  obtain ⟨ok, ended⟩ | ⟨fault, ended⟩ := g.access_cases req commit (Stages.okData i.op) bus
  · rw [ended, Gendec.respond, stores]
    exact .committed req own ok
  · rw [ended]
    exact .failed req own fault

/-- A byte write is a transfer behind the range stage. -/
theorem Ended.of_inRangeThen {req : BusReq} {fits : Bool} (range : Stages.inRange p i.op i.miscdata = fits)
    (own : requestOf p i g = if fits then some req else none) {commit : Gendec → Gendec}
    (stores : (commit (g.issue req)).release = (commitOf p i g).release) :
    Ended p i bus g (g.inRangeThen fits (Gendec.access req commit (Stages.okData i.op) bus)) := by
  cases fits with
  | false => exact .outOfRange range own
  | true => exact .of_access own stores

/-- GEN_SET_ADDR ends at the range stage or OK, under either value of `MISC_HIGH_MUX` (R90, R92). -/
theorem Ended.of_setAddr (o m : Word) : Ended p (.genSetAddr o m) bus g (setAddr p o m g) := by
  have silent : requestOf p (.genSetAddr o m) g = none := requestOf_genSetAddr ..
  cases mux : p.miscHighMux with
  | off =>
    have fits : Stages.inRange p .genSetAddr m = true := inRange_of_no_width (by rw [mux]; rfl) m
    simpa [setAddr, commitOf, mux] using Ended.settled (p := p) (i := .genSetAddr o m) fits rfl silent
  | on =>
    have range : Stages.inRange p .genSetAddr m = fieldInRange p 7 m := inRange_of_width (by rw [mux]; rfl) m
    simp only [setAddr, mux]
    cases fits : fieldInRange p 7 m with
    | false => exact .outOfRange (range.trans fits) silent
    | true =>
      simpa [commitOf, mux] using Ended.settled (p := p) (i := .genSetAddr o m) (range.trans fits) rfl silent

end

/-- Every instruction, under any parameters and any oracle, ends in one of the four ways. -/
theorem perform_ended (p : Params) (i : Instr) (bus : BusReq → BusAnswer) (g : Gendec) :
    Ended p i bus g (perform p i bus g) := by
  cases i with
  | genSetAddr o m => exact .of_setAddr o m
  | genSetBank o m => exact .settled (inRange_of_no_width rfl m) rfl (requestOf_genSetBank ..)
  | genRomRd o m => exact .of_access (requestOf_genRomRd ..) rfl
  | genWrLo o m => exact .of_inRangeThen (inRange_of_width rfl m) (requestOf_genWrLo ..) rfl
  | genWrHi o m => exact .of_inRangeThen (inRange_of_width rfl m) (requestOf_genWrHi ..) rfl
  | genFlashWrAddroff o m => exact .of_access (requestOf_genFlashWrAddroff ..) rfl
  | genSstFlashWrAddroff o m => exact .of_access (requestOf_genSstFlashWrAddroff ..) rfl

/-- What `exec` answers is one of the four ends, recorded. -/
theorem exec_ended {i : Instr} {s t : State} (h : exec i s = .next t) :
    ∃ d, Ended params i s.busAnswer s.toGendec d ∧ t = s.record d :=
  ⟨_, perform_ended .., exec_next_iff.1 h⟩

/-! ### The end of a command, by its request -/

section
variable {p : Params} {i : Instr} {g : Gendec}

/-- The end of an instruction that makes no request: the range stage alone decides it. -/
theorem perform_of_silent (silent : requestOf p i g = none) (bus : BusReq → BusAnswer) :
    perform p i bus g =
      g.inRangeThen (Stages.inRange p i.op i.miscdata) fun g => (commitOf p i g).respond .ok none none := by
  generalize ended : perform p i bus g = d
  cases ended ▸ perform_ended p i bus g with
  | outOfRange wide _ => rw [wide, Gendec.inRangeThen_false]
  | settled fits _ _ => rw [fits, Gendec.inRangeThen_true]
  | failed _ own _ | committed _ own _ => cases silent.symm.trans own

/-- The end of an instruction whose request fails. -/
theorem perform_of_fault {bus : BusReq → BusAnswer} {req : BusReq} (own : requestOf p i g = some req)
    (fault : (bus req).ok = false) : perform p i bus g = g.respond .busFault none (some ⟨req, bus req⟩) := by
  generalize ended : perform p i bus g = d
  cases ended ▸ perform_ended p i bus g with
  | outOfRange _ silent | settled _ _ silent => cases own.symm.trans silent
  | failed _ own' _ => cases own.symm.trans own'; rfl
  | committed _ own' ok => cases own.symm.trans own'; cases fault.symm.trans ok

/-- The end of an instruction whose request succeeds. -/
theorem perform_of_ok {bus : BusReq → BusAnswer} {req : BusReq} (own : requestOf p i g = some req)
    (ok : (bus req).ok = true) :
    perform p i bus g =
      (commitOf p i g).respond .ok (Stages.okData i.op (bus req)) (some ⟨req, bus req⟩) := by
  generalize ended : perform p i bus g = d
  cases ended ▸ perform_ended p i bus g with
  | outOfRange _ silent | settled _ _ silent => cases own.symm.trans silent
  | failed _ own' fault => cases own.symm.trans own'; cases fault.symm.trans ok
  | committed _ own' _ => cases own.symm.trans own'; rfl

/-- Settles O54: an instruction with no request ends without the oracle, and one with a request ends by its answer. -/
theorem onlyTheOwnRequestsAnswerMatters : Obligations.OnlyTheOwnRequestsAnswerMatters := by
  intro p i bus bus' g agree
  cases own : requestOf p i g with
  | none => rw [perform_of_silent own, perform_of_silent own]
  | some req =>
    have same : bus req = bus' req := agree req own
    cases answer : (bus req).ok with
    | false => rw [perform_of_fault own answer, perform_of_fault own (same ▸ answer), same]
    | true => rw [perform_of_ok own answer, perform_of_ok own (same ▸ answer), same]

end

/-! ### The staged dispatch of Machine/Stages.lean -/

/-- A bank written by itself leaves the other bits of HIGH, as bits and as a number (R92). -/
theorem ofNat_setBankBits (h m : Word) :
    BitVec.ofNat 16 (h.toNat / 128 * 128 + m.toNat % 128) = h.extractLsb' 7 9 ++ m.extractLsb' 0 7 := by
  apply BitVec.eq_of_toNat_eq
  have := h.isLt
  rw [BitVec.toNat_append, ← Nat.shiftLeft_add_eq_or_of_lt (BitVec.isLt _), BitVec.extractLsb'_toNat,
    BitVec.extractLsb'_toNat, BitVec.toNat_ofNat, Nat.shiftLeft_eq, Nat.shiftRight_eq_div_pow]
  omega

/-- The candidate state of stage 3 is the commit (R78, R92). -/
theorem candidate_own (p : Params) (i : Instr) (g : Gendec) :
    Stages.candidate p i.op g.own i.operand i.miscdata = (commitOf p i g).own := by
  cases i
  case genSetAddr o m =>
    cases mux : p.miscHighMux
    case off => simp [Stages.candidate, commitOf, Gendec.own, Instr.op, Instr.operand, mux]
    case on =>
      simp [Stages.candidate, commitOf, Gendec.own, Instr.op, Instr.operand, Instr.miscdata, mux, ofNat_setBankBits]
  all_goals rfl

/-- The registers, the response and the transfer of a finished command. -/
def Done.result (d : Done) : Stages.Result := ⟨d.gendec.own, d.response, d.transfer⟩

/-- Ending a command leaves the two registers. -/
@[simp] theorem Done.result_respond (st : Status) (d : Option Word) (x : Option Transfer) (g : Gendec) :
    (g.respond st d x).result = ⟨g.own, ⟨st, d⟩, x⟩ := rfl

/-- An instruction in range makes the request of stage 3 (R75 to R77). -/
theorem requestOf_eq_some_iff {p : Params} {i : Instr} {g : Gendec} {req : BusReq} :
    requestOf p i g = some req ↔
      Stages.inRange p i.op i.miscdata = true ∧ Stages.request p i.op g.own i.operand i.miscdata = some req := by
  unfold requestOf
  cases Stages.inRange p i.op i.miscdata <;> simp

/-- `dispatch` of an instruction's command gives what its meaning gives: each end of the meaning is one path through the
stages (R71). -/
theorem dispatch_encode (p : Params) (i : Instr) (bus : BusReq → BusAnswer) (g : Gendec) :
    Stages.dispatch p g.own (encode i) bus = (perform p i bus g).result := by
  unfold Stages.dispatch
  simp only [encode, decodeOpcode_number, candidate_own]
  generalize ended : perform p i bus g = d
  cases ended ▸ perform_ended p i bus g with
  | outOfRange wide _ => simp only [wide, Bool.false_eq_true, if_false, Done.result_respond]
  | settled fits _ silent =>
    have noRequest : Stages.request p i.op g.own i.operand i.miscdata = none := by rwa [requestOf, if_pos fits] at silent
    simp only [fits, noRequest, if_true, Done.result_respond]
  | failed req own fault =>
    obtain ⟨fits, request⟩ := requestOf_eq_some_iff.1 own
    simp only [fits, request, fault, Bool.false_eq_true, if_true, if_false, Done.result_respond]
  | committed req own ok =>
    obtain ⟨fits, request⟩ := requestOf_eq_some_iff.1 own
    simp only [fits, request, ok, if_true, Done.result_respond]

/-- Settles O41, by `dispatch_encode` and `exec_eq`. -/
theorem meaningsAgreeWithTheStagedDispatch : Obligations.MeaningsAgreeWithTheStagedDispatch := by
  refine ⟨fun p i bus g => ?_, exec_eq⟩
  rw [dispatch_encode]
  exact ⟨rfl, rfl, rfl⟩

end Sys2Proof.Machine

/-! SUPPORT. What every step keeps: the invariant of Safety.lean (10_state.md R26, R28; 20_memory.md R37, R45). -/

namespace Sys2Proof.Machine

/-! ### Reset -/

/-- A session starts with the invariant if its cartridge is canonical (R160, R161). -/
theorem State.Inv.rst {s : State} (canonical : Memory.wf s.mem = true) (x y : Word) : (s.rst x y).Inv where
  ready := rfl
  noRequest := rfl
  oneResponseEach := rfl
  oneRequestAtMost := Nat.le_refl _
  requestsLegal := by simp
  responsesLegal := by simp
  memoryCanonical := canonical

/-- Every draw of the registers meets the invariant. -/
theorem State.Inv.resetWith (x y : Word) : (State.resetWith x y).Inv where
  ready := rfl
  noRequest := rfl
  oneResponseEach := rfl
  oneRequestAtMost := Nat.le_refl _
  requestsLegal := by simp
  responsesLegal := by simp
  memoryCanonical := rfl

/-! ### One command -/

/-- What a finished command must be to keep the invariant: GENDEC is ready and no request is in progress, and its request
and its response have the shapes of the spec. -/
structure Done.Legal (d : Done) : Prop where
  ready : d.gendec.busy = false
  noRequest : d.gendec.inFlight = none
  requestLegal : ∀ x, d.transfer = some x → reqLegal x.req = true
  responseLegal : Machine.responseLegal d.response = true

/-- A command that made no request is legal if its response is. -/
theorem Done.Legal.respond_none {st : Status} {d : Option Word} (response : Machine.responseLegal ⟨st, d⟩ = true)
    (g : Gendec) : (g.respond st d none).Legal :=
  ⟨rfl, rfl, by simp, response⟩

/-- A command that made a request is legal if the request and the response are. -/
theorem Done.Legal.respond_some {st : Status} {d : Option Word} {req : BusReq} (request : reqLegal req = true)
    (response : Machine.responseLegal ⟨st, d⟩ = true) (a : BusAnswer) (g : Gendec) :
    (g.respond st d (some ⟨req, a⟩)).Legal :=
  ⟨rfl, rfl, fun _ made => Option.some.inj made ▸ request, response⟩

/-- Each effect of an instruction is legal. -/
theorem Effect.legal {bus : BusReq → BusAnswer} {g : Gendec} {d : Done} (h : Effect bus g d) : d.Legal := by
  cases h with
  | outOfRange | setLow | setHigh => exact .respond_none rfl _
  | busFault req legal | written req legal => exact .respond_some legal rfl _ _
  | moved req v d legal => exact .respond_some legal (by simp [responseLegal]) _ _

/-- Every command taken is legal, an illegal opcode included. -/
theorem cycle_legal {p : Params} (off : p.miscHighMux = .off) (c : Cmd) (bus : BusReq → BusAnswer) (g : Gendec) :
    (cycle p c bus g).Legal := by
  obtain ⟨_, illegal⟩ | ⟨_, _, _, effect⟩ := cycle_cases off c bus g
  · rw [illegal]
    exact .respond_none rfl _
  · exact effect.legal

/-! ### Recording a command -/

/-- A command leaves the cartridge's memory canonical. -/
theorem Outside.wf_after_mem {e : Outside} (w : Memory.wf e.mem = true) (x : Option Transfer) (r : Response) :
    Memory.wf (e.after x r).mem = true := by
  cases x with
  | none => exact w
  | some x =>
    rw [Outside.after_some, Outside.deliver_mem, Outside.collect_mem]
    split
    · exact Memory.wf_refCartAfter w x.req
    · exact w

/-- Recording a legal command keeps the invariant. The state before it may be busy: a command was taken. -/
theorem State.Inv.record_take {s : State} (inv : s.Inv) (rest : List Cmd) {d : Done} (legal : d.Legal) :
    ((s.take rest).record d).Inv where
  ready := legal.ready
  noRequest := legal.noRequest
  oneResponseEach := by simp [Outside.after_k, Outside.after_responses, inv.oneResponseEach]
  oneRequestAtMost := by
    have atMostOne : d.transfer.toList.length ≤ 1 := by cases d.transfer <;> simp
    have before := inv.oneRequestAtMost
    simp only [State.record_toOutside, Outside.after_history, Outside.after_responses, State.take_history,
      State.take_responses, List.length_append, List.length_singleton]
    omega
  requestsLegal := by
    intro x hx
    rw [State.record_toOutside, Outside.after_history, List.mem_append, Option.mem_toList] at hx
    exact hx.elim (inv.requestsLegal x) (legal.requestLegal x)
  responsesLegal := by
    intro r hr
    rw [State.record_toOutside, Outside.after_responses, List.mem_append, List.mem_singleton] at hr
    exact hr.elim (inv.responsesLegal r) (· ▸ legal.responseLegal)
  memoryCanonical := Outside.wf_after_mem (e := (s.take rest).toOutside) inv.memoryCanonical _ _

/-- Settles O3: a step takes no command, or records one, and every command is legal. -/
theorem stepKeepsTheInvariant : Obligations.StepKeepsTheInvariant := by
  intro s t inv stepped
  obtain ⟨_, rfl⟩ | ⟨c, rest, _, rfl⟩ := step_cases stepped
  · exact inv
  · exact inv.record_take rest (cycle_legal rfl c _ _)

/-- Settles O2: `State.reset` is one of the draws. -/
theorem resetMeetsTheInvariant : Obligations.ResetMeetsTheInvariant :=
  ⟨.resetWith _ _, State.Inv.resetWith⟩

/-- Settles O1: each part is a field of the reset state. -/
theorem resetIsReadyWhateverTheDraw : Obligations.ResetIsReadyWhateverTheDraw :=
  ⟨fun _ _ => ⟨rfl, rfl, rfl, rfl, rfl, rfl, rfl, rfl⟩, _, _, rfl⟩

/-- Settles O49: the parts are fields of `State.rst`, and the invariant is `State.Inv.rst`. -/
theorem resetLeavesTheCartridgeAlone : Obligations.ResetLeavesTheCartridgeAlone :=
  fun _ x y => ⟨rfl, rfl, rfl, rfl, rfl, rfl, rfl, rfl, rfl, fun canonical => .rst canonical x y⟩

end Sys2Proof.Machine

/-! SUPPORT. One step from its command, and runs of steps (40_dispatch.md R70 to R73, 70_reset_and_hazards.md R171). -/

namespace Sys2Proof.Machine

/-! ### One step -/

/-- No command is offered exactly when `BUSY` is set or none has arrived (R26, R39). -/
theorem State.offer_eq_nothing {s : State} : s.offer = .nothing ↔ s.busy = true ∨ s.pending = [] := by
  unfold State.offer
  cases s.busy <;> cases s.pending <;> simp

/-- A step that takes a command that decodes runs its instruction (R71). -/
theorem step_of_decode {s : State} {c : Cmd} {rest : List Cmd} {i : Instr} (taken : s.offer = .command c rest)
    (decoded : decode c = .ok i) : step s = exec i (s.take rest) := by
  unfold step
  simp only [taken, decoded]

/-- The next state always exists: a step changes nothing, or records a command. -/
theorem exists_step (s : State) : ∃ t, step s = .next t := by
  cases offered : s.offer with
  | nothing => exact ⟨s, step_nothing offered⟩
  | command c rest => exact ⟨_, step_eq_cycle offered⟩

/-- Settles O8, by `exists_step`. -/
theorem everyStateHasANextState : Obligations.EveryStateHasANextState := exists_step

/-- Settles O7: then nothing is offered. -/
theorem nothingTakenChangesNothing : Obligations.NothingTakenChangesNothing :=
  fun _ none => step_nothing (State.offer_eq_nothing.2 none)

/-- Settles O4: the head command is the one offered. -/
theorem stepRunsTheDecodedCommand : Obligations.StepRunsTheDecodedCommand :=
  fun _ _ _ _ ready arrived decoded => step_of_decode (State.offer_eq_command.2 ⟨ready, arrived⟩) decoded

/-- Settles O5: the table word is the instruction's command (`tableCmd_word`), and it stands first. -/
theorem tableWordRunsAtTheNextStep : Obligations.TableWordRunsAtTheNextStep := by
  intro s i
  rw [State.withFetchWord, tableCmd_word]
  exact step_of_decode (State.offer_eq_command.2 ⟨rfl, rfl⟩) (decode_encode i)

/-- Settles O50, by `step_eq_cycle`. -/
theorem stepIsTheCycleOfItsInputs : Obligations.StepIsTheCycleOfItsInputs :=
  fun _ _ _ => step_eq_cycle

/-! ### Runs -/

/-- A run from a state in which a step changes nothing stays there. -/
theorem run_of_step_self {s : State} (still : step s = .next s) (n : Nat) : Host.Core.run core n s = .next s := by
  induction n with
  | zero => rfl
  | succ n ih => exact (run_succ core still).trans ih

/-- A property of two states and the number of steps to go that every pair of steps keeps holds at the end of two runs. -/
theorem run_pair {R : Nat → State → State → Prop}
    (keeps : ∀ n s t, R (n + 1) s t → ∃ s' t', step s = .next s' ∧ step t = .next t' ∧ R n s' t')
    (n : Nat) {s t : State} (h : R n s t) :
    ∃ s' t', Host.Core.run core n s = .next s' ∧ Host.Core.run core n t = .next t' ∧ R 0 s' t' := by
  induction n generalizing s t with
  | zero => exact ⟨s, t, rfl, rfl, h⟩
  | succ n ih =>
    obtain ⟨s', t', stepS, stepT, h'⟩ := keeps n s t h
    rw [run_succ core stepS, run_succ core stepT]
    exact ih h'

end Sys2Proof.Machine

/-! SUPPORT. Two machines that differ only where no request looks: the unassigned bits of HIGH (10_state.md R12) and the
registers that nothing has written since reset (R27, R28; 70_reset_and_hazards.md R163). -/

namespace Sys2Proof.Machine

/-! ### Two machines that make the same request -/

/-- A relation between two machines that no part of a command but its request can break. -/
structure Unobserved (R : Gendec → Gendec → Prop) : Prop where
  sameBusy : ∀ {g g'}, R g g' → g.busy = g'.busy
  take : ∀ {g g'}, R g g' → R g.take g'.take
  release : ∀ {g g'}, R g g' → R g.release g'.release
  commitOf : ∀ {g g'} (i : Instr), R g g' → R (commitOf params i g) (commitOf params i g')

/-- Two finished commands that leave related machines and give the same outputs. -/
structure Done.Alike (R : Gendec → Gendec → Prop) (d d' : Done) : Prop where
  related : R d.gendec d'.gendec
  sameResponse : d.response = d'.response
  sameTransfer : d.transfer = d'.transfer

section
variable {R : Gendec → Gendec → Prop} (unobserved : Unobserved R) {g g' : Gendec}
include unobserved

/-- Related machines that respond alike stay related. -/
theorem Unobserved.respond_alike (related : R g g') (st : Status) (d : Option Word) (x : Option Transfer) :
    (g.respond st d x).Alike R (g'.respond st d x) :=
  ⟨unobserved.release related, rfl, rfl⟩

/-- An instruction that makes the same request of two related machines ends alike in both. -/
theorem Unobserved.perform_alike (related : R g g') (i : Instr) (bus : BusReq → BusAnswer)
    (sameRequest : requestOf params i g = requestOf params i g') :
    (perform params i bus g).Alike R (perform params i bus g') := by
  cases own : requestOf params i g with
  | none =>
    rw [perform_of_silent own, perform_of_silent (sameRequest ▸ own)]
    cases Stages.inRange params i.op i.miscdata with
    | false => exact unobserved.respond_alike related ..
    | true => exact unobserved.respond_alike (unobserved.commitOf i related) ..
  | some req =>
    cases answer : (bus req).ok with
    | false =>
      rw [perform_of_fault own answer, perform_of_fault (sameRequest ▸ own) answer]
      exact unobserved.respond_alike related ..
    | true =>
      rw [perform_of_ok own answer, perform_of_ok (sameRequest ▸ own) answer]
      exact unobserved.respond_alike (unobserved.commitOf i related) ..

/-- So does a command: an illegal opcode makes no request. -/
theorem Unobserved.cycle_alike (related : R g g') (c : Cmd) (bus : BusReq → BusAnswer)
    (sameRequest : ∀ i, decode c = .ok i → requestOf params i g = requestOf params i g') :
    (cycle params c bus g).Alike R (cycle params c bus g') := by
  unfold cycle
  cases decoded : decode c with
  | ok i => exact unobserved.perform_alike (unobserved.take related) i bus (sameRequest i decoded)
  | error r =>
    obtain rfl := decode_error decoded
    exact unobserved.respond_alike (unobserved.take related) ..

end

/-- Two states with related machines and the same surroundings. -/
def State.Related (R : Gendec → Gendec → Prop) (s t : State) : Prop :=
  R s.toGendec t.toGendec ∧ s.toOutside = t.toOutside

/-- Such states step to such states, if the command taken makes the same request of both. -/
theorem Unobserved.step_alike {R : Gendec → Gendec → Prop} (unobserved : Unobserved R) {s t : State}
    (h : State.Related R s t)
    (sameRequest : ∀ c rest i, s.offer = .command c rest → decode c = .ok i →
      requestOf params i s.toGendec = requestOf params i t.toGendec) :
    ∃ s' t', step s = .next s' ∧ step t = .next t' ∧ State.Related R s' t' := by
  obtain ⟨related, surroundings⟩ := h
  have sameOffer : s.offer = t.offer := by
    unfold State.offer
    rw [unobserved.sameBusy related, surroundings]
  cases offered : s.offer with
  | nothing => exact ⟨s, t, step_nothing offered, step_nothing (sameOffer ▸ offered), related, surroundings⟩
  | command c rest =>
    obtain ⟨gendec, response, transfer⟩ :=
      unobserved.cycle_alike related c s.busAnswer fun i => sameRequest c rest i offered
    refine ⟨_, _, step_eq_cycle offered, step_eq_cycle (sameOffer ▸ offered), ?_, ?_⟩
    · rw [← surroundings]
      exact gendec
    · simp only [State.record_toOutside, State.take, ← surroundings, response, transfer]

/-! ### The unassigned bits of HIGH -/

/-- Two machines that differ at most in HIGH, with the same bank and flag lines. -/
def Gendec.SameLines (g g' : Gendec) : Prop :=
  g' = { g with high := g'.high } ∧ sameLines params.flags g.high g'.high

/-- A request reads of HIGH the bank and the two flags alone (R12). -/
theorem requestOf_eq_of_sameLines {g g' : Gendec} (h : g.SameLines g') (i : Instr) :
    requestOf params i g = requestOf params i g' := by
  obtain ⟨same, bank, loMem, time⟩ := h
  rw [same]
  cases i with
  | genSetAddr | genSetBank => simp only [requestOf_genSetAddr, requestOf_genSetBank]
  | genRomRd => simp only [requestOf_genRomRd, romRdReq, bankAddr, bank, loMem, time]
  | genWrLo => simp only [requestOf_genWrLo, wrLoReq, bankAddr, bank, loMem, time]
  | genWrHi => simp only [requestOf_genWrHi, wrHiReq, bankAddr, bank, loMem, time]
  | genFlashWrAddroff =>
    simp only [requestOf_genFlashWrAddroff, flashWrReq, effectiveAddr, bankAddr, bank, loMem, time]
  | genSstFlashWrAddroff =>
    simp only [requestOf_genSstFlashWrAddroff, sstFlashWrReq, effectiveAddr, bankAddr, bank, loMem, time]

/-- No commit tells such machines apart: HIGH is kept or replaced whole. -/
theorem unobserved_sameLines : Unobserved Gendec.SameLines where
  sameBusy h := by rw [h.1]
  take := fun ⟨same, lines⟩ => ⟨by rw [same]; rfl, lines⟩
  release := fun ⟨same, lines⟩ => ⟨by rw [same]; rfl, lines⟩
  commitOf i h := by
    obtain ⟨same, lines⟩ := h
    rw [same]
    cases i with
    | genSetBank => exact ⟨rfl, rfl, rfl, rfl⟩
    | genSetAddr | genRomRd | genWrLo | genWrHi | genFlashWrAddroff | genSstFlashWrAddroff => exact ⟨rfl, lines⟩

/-- Settles O42: each pair of steps keeps `Gendec.SameLines` and the surroundings equal. -/
theorem unassignedBitsAreNeverObserved : Obligations.UnassignedBitsAreNeverObserved := by
  intro n s h lines
  obtain ⟨t, t', runS, runH, ⟨same, linesEnd⟩, surroundings⟩ :=
    run_pair (R := fun _ => State.Related Gendec.SameLines)
      (fun _ _ _ related => unobserved_sameLines.step_alike related
        fun _ _ i _ _ => requestOf_eq_of_sameLines related.1 i)
      n (s := s) (t := { s with high := h }) ⟨⟨rfl, lines⟩, rfl⟩
  refine ⟨t, t', runS, runH, ?_, linesEnd⟩
  calc t' = ⟨t'.toGendec, t'.toOutside⟩ := rfl
    _ = _ := by rw [same, ← surroundings]

/-! ### The draw of the registers at reset -/

/-- Two machines that differ at most in registers that nothing has written since reset. -/
def Gendec.SameButUnwritten (g g' : Gendec) : Prop :=
  g' = { g with low := g'.low, high := g'.high } ∧
    (g.lowWritten = true → g'.low = g.low) ∧ (g.highWritten = true → g'.high = g.high)

/-- The relation of Safety.lean is this one with the same surroundings. -/
theorem State.sameButUnwritten_iff {s t : State} :
    State.SameButUnwritten s t ↔ State.Related Gendec.SameButUnwritten s t := by
  obtain ⟨g, e⟩ := s
  obtain ⟨g', e'⟩ := t
  simp only [State.SameButUnwritten, State.Related, Gendec.SameButUnwritten, State.mk.injEq, and_assoc, eq_comm (a := e)]
  tauto

/-- A data opcode whose duty is met reads registers that have been written, so such machines make the same request
(R163). -/
theorem requestOf_eq_of_duty {g g' : Gendec} (h : g.SameButUnwritten g') {i : Instr} (duty : dutyFor i.op g = true) :
    requestOf params i g = requestOf params i g' := by
  obtain ⟨same, low, high⟩ := h
  cases i with
  | genSetAddr | genSetBank => simp only [requestOf_genSetAddr, requestOf_genSetBank]
  | genRomRd => simp only [requestOf_genRomRd, romRdReq, high duty]
  | genWrLo => simp only [requestOf_genWrLo, wrLoReq, high duty]
  | genWrHi => simp only [requestOf_genWrHi, wrHiReq, high duty]
  | genFlashWrAddroff =>
    obtain ⟨highWritten, lowWritten⟩ := Bool.and_eq_true_iff.1 duty
    simp only [requestOf_genFlashWrAddroff, flashWrReq, high highWritten, low lowWritten]
  | genSstFlashWrAddroff =>
    obtain ⟨highWritten, lowWritten⟩ := Bool.and_eq_true_iff.1 duty
    simp only [requestOf_genSstFlashWrAddroff, sstFlashWrReq, high highWritten, low lowWritten]

/-- No commit tells such machines apart: a register is kept, with its ghost bit, or replaced whole. -/
theorem unobserved_sameButUnwritten : Unobserved Gendec.SameButUnwritten where
  sameBusy h := by rw [h.1]
  take := fun ⟨same, written⟩ => ⟨by rw [same]; rfl, written⟩
  release := fun ⟨same, written⟩ => ⟨by rw [same]; rfl, written⟩
  commitOf i h := by
    obtain ⟨same, low, high⟩ := h
    rw [same]
    cases i with
    | genSetBank => exact ⟨rfl, low, fun _ => rfl⟩
    | genSetAddr | genRomRd | genWrLo | genWrHi => exact ⟨rfl, fun _ => rfl, high⟩
    | genFlashWrAddroff | genSstFlashWrAddroff => exact ⟨rfl, low, high⟩

/-- Where the duty is met, the instruction taken next comes after what R163 asks for. -/
theorem State.dutyFor_of_dutyMet {s : State} (duty : s.dutyMet = true) {c : Cmd} {rest : List Cmd} {i : Instr}
    (taken : s.offer = .command c rest) (decoded : decode c = .ok i) : dutyFor i.op s.toGendec = true := by
  obtain rfl := decode_eq_ok_iff.1 decoded
  simpa only [State.dutyMet, taken, encode, decodeOpcode_number] using duty

/-- Settles O43: each pair of dutiful steps keeps `Gendec.SameButUnwritten` and the surroundings equal. -/
theorem resetDrawIsInvisibleToADutifulHost : Obligations.ResetDrawIsInvisibleToADutifulHost := by
  intro n s t same duties
  obtain ⟨s', t', runS, runT, related, _⟩ :=
    run_pair (R := fun n s t => State.Related Gendec.SameButUnwritten s t ∧ State.DutyMetFor n s)
      (fun n s t ⟨related, duty, duties⟩ => by
        obtain ⟨s', t', stepS, stepT, related'⟩ := unobserved_sameButUnwritten.step_alike related
          fun _ _ _ taken decoded => requestOf_eq_of_duty related.1 (State.dutyFor_of_dutyMet duty taken decoded)
        exact ⟨s', t', stepS, stepT, related', duties s' stepS⟩)
      n ⟨State.sameButUnwritten_iff.1 same, duties⟩
  exact ⟨s', t', runS, runT, State.sameButUnwritten_iff.2 related, by rw [related.2], by rw [related.2]⟩

end Sys2Proof.Machine

/-! SUPPORT. The current address, the flag lines, the range check and the offset sum, on bits and on numbers
(10_state.md R12, R14; 30_encoding.md R57, R58; 41_address_setting.md R92, R94; 43_flash_write.md R120). -/

namespace Sys2Proof.Machine

/-! ### The current address (R14) -/

/-- `CA[15:0]` is LOW. -/
@[simp] theorem Gendec.currentAddress_low (g : Gendec) : g.currentAddress.extractLsb' 0 16 = g.low :=
  BitVec.extractLsb'_append_eq_right

/-- `CA[23:16]` is 0 and the bank. -/
@[simp] theorem Gendec.currentAddress_high (g : Gendec) :
    g.currentAddress.extractLsb' 16 8 = 0#1 ++ bankOf g.high :=
  BitVec.extractLsb'_append_eq_left

/-- The current address as a number: the bank address of LOW. -/
theorem Gendec.currentAddress_toNat (g : Gendec) :
    g.currentAddress.toNat = g.high.toNat % 128 * 65536 + g.low.toNat := by
  rw [← bankAddr_toNat, Gendec.currentAddress, BitVec.toNat_append, BitVec.toNat_append, bankAddr, BitVec.toNat_append]
  simp

/-- `CA[22:16]` is the bank. -/
@[simp] theorem Gendec.currentAddress_bank (g : Gendec) : g.currentAddress.extractLsb' 16 7 = bankOf g.high := by
  apply BitVec.eq_of_toNat_eq
  have := g.low.isLt
  rw [BitVec.extractLsb'_toNat, Gendec.currentAddress_toNat, bankOf_toNat, Nat.shiftRight_eq_div_pow]
  omega

/-- A line is high exactly when its bit is set (R12). -/
@[simp] theorem levelOfBit_eq_high {b : Bool} : levelOfBit b = .high ↔ b = true := by
  cases b <;> decide

/-- Settles O18, bit by bit and as a number. -/
theorem currentAddressIsBankThenLow : Obligations.CurrentAddressIsBankThenLow := by
  intro s
  refine ⟨?_, fun j hj => ?_, fun i hi => ?_, s.currentAddress_toNat⟩
  · rw [Gendec.currentAddress, BitVec.getLsbD_append, BitVec.getLsbD_append]
    simp
  · rw [Gendec.currentAddress, BitVec.getLsbD_append, BitVec.getLsbD_append, bankOf]
    simp [hj]
  · rw [Gendec.currentAddress, BitVec.getLsbD_append]
    exact if_pos hi

/-- Settles O17: the two parts of CA and the flag levels, read off the registers each opcode leaves. -/
theorem currentAddressAfterSetting : Obligations.CurrentAddressAfterSetting := by
  refine ⟨fun a m s => ⟨_, exec_eq _ s, ?_, ?_⟩, fun b m s => ⟨_, exec_eq _ s, ?_, levelOfBit_eq_high,
    levelOfBit_eq_high, ?_⟩⟩
  · exact Gendec.currentAddress_low _
  · rw [Gendec.currentAddress_high, Gendec.currentAddress_high]; rfl
  · exact Gendec.currentAddress_bank _
  · rw [Gendec.currentAddress_low, Gendec.currentAddress_low]; rfl

/-! ### The range check and the bank bits of GEN_SET_ADDR -/

/-- Settles O19: the range stage of a 7-bit field, then LOW and the bank bits of HIGH are replaced. -/
theorem setAddrUnderMiscHighMux : Obligations.SetAddrUnderMiscHighMux := by
  intro p a m g on
  constructor
  · intro reject wide
    have outOfRange : fieldInRange p 7 m = false := by
      rw [fieldInRange_reject reject, decide_eq_false_iff_not]
      omega
    simp only [setAddr, on, outOfRange, Gendec.inRangeThen_false]
    rfl
  · intro fits
    have inRange : fieldInRange p 7 m = true := by
      cases policy : p.rangePolicy with
      | truncate => exact fieldInRange_truncate policy 7 m
      | reject => exact (fieldInRange_reject policy 7 m).trans (decide_eq_true (fits.resolve_left (by simp [policy])))
    have ended : setAddr p a m g = ((g.setLow a).setBankBits (m.extractLsb' 0 7)).respond .ok none none := by
      simp only [setAddr, on, inRange, Gendec.inRangeThen_true, Gendec.settle_eq]
    rw [ended]
    exact ⟨rfl, BitVec.extractLsb'_append_eq_right, BitVec.extractLsb'_append_eq_left, rfl, rfl⟩

/-- Clearing the high byte keeps the low byte. -/
theorem extractLsb'_and_low_byte (m : Word) : (m &&& 0x00FF#16).extractLsb' 0 8 = m.extractLsb' 0 8 := by
  apply BitVec.eq_of_toNat_eq
  have mask : m.toNat &&& 0x00FF = m.toNat % 2 ^ 8 := Nat.and_two_pow_sub_one_eq_mod m.toNat 8
  simp [mask]

/-- A field with its high byte cleared has a byte's width. -/
theorem fieldInRange_and_low_byte (p : Params) (m : Word) : fieldInRange p 8 (m &&& 0x00FF#16) = true := by
  cases policy : p.rangePolicy with
  | truncate => exact fieldInRange_truncate policy 8 _
  | reject =>
    have small : (m &&& 0x00FF#16).toNat < 2 ^ 8 := Nat.lt_of_le_of_lt Nat.and_le_right (by decide)
    exact (fieldInRange_reject policy 8 _).trans (decide_eq_true small)

/-- Settles O25: both commands pass the range stage, and their requests drive the same byte. -/
theorem truncateIgnoresTheHighByte : Obligations.TruncateIgnoresTheHighByte := by
  intro p a m bus g
  constructor
  · simp only [wrLo, fieldInRange_and_low_byte, fieldInRange_truncate, wrLoReq, lanesLow, extractLsb'_and_low_byte]
  · simp only [wrHi, fieldInRange_and_low_byte, fieldInRange_truncate, wrHiReq, lanesHigh, extractLsb'_and_low_byte]

/-! ### The offset sum (R120) -/

/-- The effective address as a number. -/
theorem effectiveAddr_toNat (h l off : Word) :
    (effectiveAddr h l off).toNat = (h.toNat % 128 * 65536 + l.toNat + off.toNat) % 2 ^ 23 := by
  rw [← ofNat_effectiveAddr, BitVec.toNat_ofNat, Nat.mod_mod]

/-- The bank of an effective address as a number: the bank of HIGH and the carry. -/
theorem effectiveAddr_bank_toNat (h l off : Word) :
    ((effectiveAddr h l off).extractLsb' 16 7).toNat = (h.toNat % 128 + (l.toNat + off.toNat) / 65536) % 128 := by
  rw [BitVec.extractLsb'_toNat, effectiveAddr_toNat, Nat.shiftRight_eq_div_pow]
  omega

/-- Settles O28, on numbers: `effectiveAddr_toNat` gives the sum, and the carry is 0 below 65536 and 1 from there on. -/
theorem offsetSumIsUnsignedModulo : Obligations.OffsetSumIsUnsignedModulo := by
  intro h l off
  have l_lt := l.isLt
  have off_lt := off.isLt
  refine ⟨effectiveAddr_toNat h l off, ?_, fun noCarry => ?_, fun carry => ?_, fun h' sameBank => ?_⟩
  · apply BitVec.eq_of_toNat_eq
    rw [BitVec.extractLsb'_toNat, effectiveAddr_toNat, BitVec.toNat_add, Nat.shiftRight_zero]
    omega
  · change _ = bankOf h
    apply BitVec.eq_of_toNat_eq
    rw [effectiveAddr_bank_toNat, bankOf_toNat, Nat.div_eq_of_lt noCarry, Nat.add_zero, Nat.mod_mod]
  · change _ = bankOf h + 1#7
    apply BitVec.eq_of_toNat_eq
    have one : (l.toNat + off.toNat) / 65536 = 1 := by omega
    rw [effectiveAddr_bank_toNat, BitVec.toNat_add, bankOf_toNat, one]
    rfl
  · rw [← BitVec.toNat_inj, effectiveAddr_toNat, effectiveAddr_toNat, sameBank]

end Sys2Proof.Machine

/-! SUPPORT. The whole next state of each instruction, by how it ends (41_address_setting.md, 42_bus_access.md,
43_flash_write.md, 60_exceptions.md R138, R139). -/

namespace Sys2Proof.Machine

/-! ### What a finished command leaves -/

/-- What a transfer leaves, with the answering cartridge named by its two conditions. -/
theorem Outside.collect_eq (x : Transfer) (e : Outside) :
    e.collect x = { e with
      answers := e.answers.tail, history := e.history ++ [x]
      mem := if e.answers = [] ∧ e.refCart = true then refCartAfter e.mem x.req else e.mem } := by
  simp only [Outside.collect, Bool.and_eq_true, List.isEmpty_iff]

/-- A command that made a request. -/
theorem State.record_transfer (g : Gendec) (st : Status) (d : Option Word) (x : Transfer) (s : State) :
    s.record (g.respond st d (some x)) =
      { s with
        toGendec := g.release, k := s.k + 1, responses := s.responses ++ [⟨st, d⟩]
        answers := s.answers.tail, history := s.history ++ [x]
        mem := if s.answers = [] ∧ s.refCart = true then refCartAfter s.mem x.req else s.mem } := by
  rw [State.record, Gendec.respond_transfer, Outside.after_some, Outside.collect_eq]
  rfl

/-! ### The next state, by the end of the instruction -/

section
variable {i : Instr} {s : State} {req : BusReq}

/-- An address-setting opcode in range. -/
theorem exec_of_silent (silent : requestOf params i s.toGendec = none)
    (fits : Stages.inRange params i.op i.miscdata = true) :
    exec i s = .next { s with
      toGendec := (commitOf params i s.toGendec).release, k := s.k + 1
      responses := s.responses ++ [⟨.ok, none⟩] } := by
  rw [exec_eq, perform_of_silent silent, fits]
  rfl

/-- A command out of range. -/
theorem exec_of_outOfRange (wide : Stages.inRange params i.op i.miscdata = false) :
    exec i s = .next { s with
      busy := false, inFlight := none, k := s.k + 1
      responses := s.responses ++ [⟨.operandOutOfRange, none⟩] } := by
  rw [exec_eq, perform_of_silent (requestOf_eq_none_iff.2 (.inl wide)), wide]
  rfl

/-- A request that succeeds. -/
theorem exec_of_ok (own : requestOf params i s.toGendec = some req) (ok : (s.busAnswer req).ok = true) :
    exec i s = .next { s with
      toGendec := (commitOf params i s.toGendec).release, k := s.k + 1
      responses := s.responses ++ [⟨.ok, Stages.okData i.op (s.busAnswer req)⟩]
      answers := s.answers.tail, history := s.history ++ [⟨req, s.busAnswer req⟩]
      mem := if s.answers = [] ∧ s.refCart = true then refCartAfter s.mem req else s.mem } := by
  rw [exec_eq, perform_of_ok own ok, State.record_transfer]

/-- A request that fails. -/
theorem exec_of_fault (own : requestOf params i s.toGendec = some req) (fault : (s.busAnswer req).ok = false) :
    exec i s = .next { s with
      busy := false, inFlight := none, k := s.k + 1
      answers := s.answers.tail, history := s.history ++ [⟨req, s.busAnswer req⟩]
      responses := s.responses ++ [⟨.busFault, none⟩] } := by
  rw [exec_eq, perform_of_fault own fault, State.record, Gendec.respond_transfer, Outside.after_some,
    Outside.collect_of_fault fault]
  rfl

end

/-- A byte write is in range exactly when its miscdata is a byte (R57). -/
theorem fieldInRange_byte_eq_true {m : Word} : fieldInRange params 8 m = true ↔ m.toNat ≤ 0x00FF := by
  rw [fieldInRange_reject rfl, decide_eq_true_iff]
  omega

/-- A GEN_WR_LO of a byte makes its request (R101). -/
theorem requestOf_genWrLo_of_byte {m : Word} (byte : m.toNat ≤ 0x00FF) (a : Word) (g : Gendec) :
    requestOf params (.genWrLo a m) g = some (wrLoReq params a m g) :=
  (requestOf_genWrLo ..).trans (if_pos (fieldInRange_byte_eq_true.2 byte))

/-- A GEN_WR_HI of a byte makes its request (R102). -/
theorem requestOf_genWrHi_of_byte {m : Word} (byte : m.toNat ≤ 0x00FF) (a : Word) (g : Gendec) :
    requestOf params (.genWrHi a m) g = some (wrHiReq params a m g) :=
  (requestOf_genWrHi ..).trans (if_pos (fieldInRange_byte_eq_true.2 byte))

/-! ### The statements -/

/-- Settles O14: no request and no field to check, so the commit is all (`exec_of_silent`). -/
theorem setAddrLoadsLow : Obligations.SetAddrLoadsLow :=
  fun _ _ _ => exec_of_silent (requestOf_genSetAddr ..) rfl

/-- Settles O15, by `exec_of_silent` as O14. -/
theorem setBankLoadsHigh : Obligations.SetBankLoadsHigh :=
  fun _ _ _ => exec_of_silent (requestOf_genSetBank ..) rfl

/-- Settles O16: each order is two next states that `setAddrLoadsLow` and `setBankLoadsHigh` give, and they end alike. -/
theorem addressSettersCommute : Obligations.AddressSettersCommute := by
  intro a b m n s
  refine ⟨_, _, _, setBankLoadsHigh b n s, setAddrLoadsLow a m _, setAddrLoadsLow a m s, ?_, rfl, rfl, rfl, ?_⟩
  · exact setBankLoadsHigh b n _
  · rintro rfl rfl
    show (0#1 ++ bankOf 0x0001#16) ++ 0x2000#16 = 0x012000#24
    decide

/-- Settles O35: the meanings of these opcodes do not have miscdata as an argument, or do not look at it. -/
theorem dontCareMiscdataChangesNothing : Obligations.DontCareMiscdataChangesNothing :=
  fun _ _ _ _ => ⟨rfl, rfl, rfl⟩

/-- Settles O20: the request succeeds (`exec_of_ok`), and a read leaves the cartridge alone. -/
theorem romRdReadsTheOperandsWord : Obligations.RomRdReadsTheOperandsWord := by
  rintro a m s req ans rfl rfl ok
  rw [exec_of_ok (requestOf_genRomRd ..) ok]
  simp only [refCartAfter, romRdReq, ite_self]
  rfl

/-- Settles O21: a byte is in range, and its request succeeds (`exec_of_ok`). -/
theorem wrLoWritesTheLowLane : Obligations.WrLoWritesTheLowLane := by
  rintro a m s req ans byte rfl rfl ok
  exact exec_of_ok (requestOf_genWrLo_of_byte byte ..) ok

/-- Settles O22, as O21, on the high lane. -/
theorem wrHiWritesTheHighLane : Obligations.WrHiWritesTheHighLane := by
  rintro a m s req ans byte rfl rfl ok
  exact exec_of_ok (requestOf_genWrHi_of_byte byte ..) ok

/-- Settles O23: the range stage of both opcodes is the byte's. -/
theorem overWideByteIsRejected : Obligations.OverWideByteIsRejected := by
  intro a m s i wide either
  have outOfRange : fieldInRange params 8 m = false := by
    rw [Bool.eq_false_iff, ne_eq, fieldInRange_byte_eq_true]
    omega
  obtain rfl | rfl := either
  · exact exec_of_outOfRange ((inRange_of_width rfl m).trans outOfRange)
  · exact exec_of_outOfRange ((inRange_of_width rfl m).trans outOfRange)

/-- Settles O26: the address of the request is the effective address (`ofNat_effectiveAddr`). -/
theorem flashWrWritesAtTheOffset : Obligations.FlashWrWritesAtTheOffset := by
  rintro d off s req ans rfl rfl ok
  simp only [ofNat_effectiveAddr] at ok ⊢
  exact exec_of_ok (requestOf_genFlashWrAddroff ..) ok

/-- Settles O27, as O26. -/
theorem sstFlashWrWritesAtTheOffset : Obligations.SstFlashWrWritesAtTheOffset := by
  rintro d off s req ans rfl rfl ok
  simp only [ofNat_effectiveAddr] at ok ⊢
  exact exec_of_ok (requestOf_genSstFlashWrAddroff ..) ok

/-- Settles O29, by `exec_of_fault`. -/
theorem failedRequestIsBusFault : Obligations.FailedRequestIsBusFault :=
  fun _ _ _ => exec_of_fault

/-! ### The response at the transport (R35, R74, R136) -/

/-- Settles O47: each part is the definition of the form at the transport, for both orders. -/
theorem readBytesInEitherOrder : Obligations.ReadBytesInEitherOrder :=
  fun _ => ⟨rfl, rfl, fun _ _ => rfl, fun _ => rfl⟩

/-- Settles O48: the five numbers, and no two of the five kinds share one. -/
theorem statusNumbersAreDistinct : Obligations.StatusNumbersAreDistinct := by
  refine ⟨rfl, fun a b => ?_⟩
  cases a <;> cases b <;> decide

end Sys2Proof.Machine

/-! SUPPORT. What a command does to each part of the state, whatever way it ends: status, data, registers, ghost bits,
history, index (40_dispatch.md R74, R78, R81; 10_state.md R15, R27; 20_memory.md R37). -/

namespace Sys2Proof.Machine

/-! ### An instruction, by its status -/

section
variable {p : Params} {i : Instr} {bus : BusReq → BusAnswer} {g : Gendec} {d : Done}

/-- A command is out of range exactly when the range stage stops it. -/
theorem Ended.status_outOfRange_iff (ended : Ended p i bus g d) :
    d.response.status = .operandOutOfRange ↔ Stages.inRange p i.op i.miscdata = false := by
  cases ended with
  | outOfRange wide _ => simp [wide]
  | settled fits _ _ => simp [fits]
  | failed _ own _ | committed _ own _ => simp [(requestOf_eq_some_iff.1 own).1]

/-- GENDEC never gives `TransportFault` (R140). -/
theorem Ended.status_ne_transportFault (ended : Ended p i bus g d) : d.response.status ≠ .transportFault := by
  cases ended <;> simp

/-- A response carries data exactly if it is OK and the opcode is GEN_ROM_RD (R74). -/
theorem Ended.data_isSome_iff (ended : Ended p i bus g d) :
    d.response.data.isSome = true ↔ d.response.status = .ok ∧ i.op = .genRomRd := by
  cases ended with
  | outOfRange | failed => simp
  | settled _ setter _ =>
    have notRead : i.op ≠ .genRomRd := fun read => by simp [read, Opcode.isData] at setter
    simp [notRead]
  | committed req own ok => simp [Stages.okData]

/-- The commit rule (R78): the registers and the ghost bits are stored if the status is OK, and are as before if not. -/
theorem Ended.gendec_eq (ended : Ended p i bus g d) :
    d.gendec = if d.response.status = .ok then (commitOf p i g).release else g.release := by
  cases ended <;> simp

/-- A data opcode ends OK exactly if it made its request and the request succeeded. -/
theorem Ended.status_ok_iff_of_isData (ended : Ended p i bus g d) (data : i.op.isData = true) :
    d.response.status = .ok ↔ ∃ req, requestOf p i g = some req ∧ (bus req).ok = true := by
  cases ended with
  | outOfRange _ silent => simp [silent]
  | settled _ setter _ => cases data.symm.trans setter
  | failed _ own fault => simp [own, fault]
  | committed _ own ok => simp [own, ok]

/-- Under `MISC_HIGH_MUX = off` no field of an address-setting opcode is checked, so it ends OK (R56, R90, R91). -/
theorem Ended.status_ok_of_setter (ended : Ended p i bus g d) (off : p.miscHighMux = .off)
    (setter : i.op.isData = false) : d.response.status = .ok := by
  have noWidth : declaredMiscWidth p.miscHighMux i.op = none := by
    cases op : i.op <;> simp_all [Opcode.isData, declaredMiscWidth]
  cases ended with
  | outOfRange wide _ => cases wide.symm.trans (inRange_of_no_width noWidth _)
  | settled => rfl
  | failed _ own _ | committed _ own _ => cases (requestOf_eq_none_iff.2 (.inr setter)).symm.trans own

/-- What HIGH is afterwards: the operand of GEN_SET_BANK, or as before. -/
theorem Ended.high_eq (ended : Ended p i bus g d) (off : p.miscHighMux = .off) :
    d.gendec.high = if i.op = .genSetBank then i.operand else g.high := by
  rw [ended.gendec_eq]
  split
  · exact commitOf_high off i g
  · rename_i notOk
    have notBank : i.op ≠ .genSetBank := fun bank => notOk (ended.status_ok_of_setter off (by rw [bank]; rfl))
    simp [notBank]

/-- What LOW is afterwards: the operand of GEN_SET_ADDR, and that of opcodes 1, 3 and 4 whose request succeeded; or as
before. -/
theorem Ended.low_eq (ended : Ended p i bus g d) (off : p.miscHighMux = .off) :
    d.gendec.low =
      if i.op = .genSetAddr ∨ (storesOperand i.op ∧ ∃ req, requestOf p i g = some req ∧ (bus req).ok = true)
      then i.operand else g.low := by
  have okIfSetter := ended.status_ok_of_setter off
  have okIffMade := ended.status_ok_iff_of_isData
  rw [ended.gendec_eq]
  cases op : i.op with
  | genSetAddr | genSetBank =>
    rw [op] at okIfSetter
    simp [okIfSetter rfl, commitOf_low off, op, storesOperand]
  | genRomRd | genWrLo | genWrHi | genFlashWrAddroff | genSstFlashWrAddroff =>
    rw [op] at okIffMade
    simp only [← okIffMade rfl]
    split <;> simp_all [commitOf_low off, storesOperand]

/-- When the ghost bit of HIGH is set afterwards. -/
theorem Ended.highWritten_iff (ended : Ended p i bus g d) (off : p.miscHighMux = .off) :
    d.gendec.highWritten = true ↔ g.highWritten = true ∨ i.op = .genSetBank := by
  rw [ended.gendec_eq]
  split
  · exact commitOf_highWritten off i g
  · rename_i notOk
    have notBank : i.op ≠ .genSetBank := fun bank => notOk (ended.status_ok_of_setter off (by rw [bank]; rfl))
    simp [notBank]

/-- When the ghost bit of LOW is set afterwards. -/
theorem Ended.lowWritten_iff (ended : Ended p i bus g d) (off : p.miscHighMux = .off) :
    d.gendec.lowWritten = true ↔
      g.lowWritten = true ∨ i.op = .genSetAddr ∨ (storesOperand i.op ∧ d.response.status = .ok) := by
  rw [ended.gendec_eq]
  split
  · rename_i ok
    simpa only [ok, and_true, Gendec.release_lowWritten] using commitOf_lowWritten off i g
  · rename_i notOk
    have notAddr : i.op ≠ .genSetAddr := fun addr => notOk (ended.status_ok_of_setter off (by rw [addr]; rfl))
    simp [notOk, notAddr]

end

/-! ### Statements about one instruction -/

/-- The range stage stops a byte write whose miscdata is no byte, and nothing else (R57). -/
theorem inRange_eq_false_iff {op : Opcode} {m : Word} :
    Stages.inRange params op m = false ↔ (op = .genWrLo ∨ op = .genWrHi) ∧ 0x00FF < m.toNat := by
  cases op with
  | genSetAddr | genRomRd | genSetBank => rw [inRange_of_no_width rfl]; simp
  | genWrLo | genWrHi => rw [inRange_of_width rfl, Bool.eq_false_iff, ne_eq, fieldInRange_byte_eq_true]; simp
  | genFlashWrAddroff | genSstFlashWrAddroff => rw [inRange_of_width rfl, fieldInRange_width_16]; simp

/-- Settles O24: `Ended.status_outOfRange_iff` and `inRange_eq_false_iff`; under `truncate` the range stage stops nothing. -/
theorem outOfRangeHasOneCause : Obligations.OutOfRangeHasOneCause := by
  constructor
  · intro i s t stepped
    obtain ⟨d, ended, rfl⟩ := exec_ended stepped
    rw [State.record_lastStatus, Option.some_inj, ended.status_outOfRange_iff]
    exact inRange_eq_false_iff
  · intro p i bus g truncate
    rw [ne_eq, (perform_ended p i bus g).status_outOfRange_iff]
    simp [Stages.inRange, truncate]

/-- Settles O30: `perform_transfer` gives the transfer, and the history gains it. -/
theorem historyGrowsByTheOneRequest : Obligations.HistoryGrowsByTheOneRequest := by
  intro i s t stepped
  obtain rfl := exec_next_iff.1 stepped
  rw [State.record_toOutside, Outside.after_history, perform_transfer]

/-- Settles O34: every end of an instruction releases GENDEC. -/
theorem readyWithStrobesHighAfterEveryCommand : Obligations.ReadyWithStrobesHighAfterEveryCommand := by
  intro i s t stepped
  obtain ⟨d, effect, rfl⟩ := exec_cases stepped
  obtain ⟨ready, noRequest, _, _⟩ := effect.legal
  simp [Gendec.cmdReady, Gendec.strobeLevels, strobesIdle, ready, noRequest]

/-- The index of the next command has no part in what a command leaves. -/
theorem State.record_with_k (d : Done) (s : State) (n : Nat) :
    State.record d { s with k := n } = { s.record d with k := n + 1 } := by
  obtain ⟨g, r, x⟩ := d
  cases x <;> rfl

/-- Settles O36: GENDEC and the oracle are the same, so the same command is recorded. -/
theorem commandIndexIsNeverRead : Obligations.CommandIndexIsNeverRead := by
  intro i s t n stepped
  obtain rfl := exec_next_iff.1 stepped
  rw [exec_eq]
  exact congrArg Host.Outcome.next (State.record_with_k _ s n)

/-- Settles O37, by `Ended.highWritten_iff` and `Ended.lowWritten_iff`. -/
theorem ghostBitsRecordTheFirstWrite : Obligations.GhostBitsRecordTheFirstWrite := by
  intro i s t stepped
  obtain ⟨d, ended, rfl⟩ := exec_ended stepped
  rw [State.record_lastStatus, Option.some_inj]
  exact ⟨ended.highWritten_iff rfl, ended.lowWritten_iff rfl⟩

/-! ### Statements about one step -/

/-- Settles O31: `Ended.low_eq` and `Ended.high_eq` for an instruction; no other step reaches the registers. -/
theorem onlyTheListedWritersChangeTheRegisters : Obligations.OnlyTheListedWritersChangeTheRegisters := by
  intro s t stepped
  cases offered : s.offer with
  | nothing =>
    obtain rfl := Host.Outcome.next.inj ((step_nothing offered).symm.trans stepped)
    exact ⟨rfl, rfl⟩
  | command c rest =>
    obtain rfl := Host.Outcome.next.inj ((step_eq_cycle offered).symm.trans stepped)
    obtain ⟨decoded, illegal⟩ | ⟨i, decoded, performed, _⟩ := cycle_cases (p := params) rfl c s.busAnswer s.toGendec
    · simp [decoded, illegal]
    · have ended := perform_ended params i s.busAnswer s.toGendec.take
      simp only [decoded, performed, State.record_toGendec]
      exact ⟨ended.low_eq rfl, ended.high_eq rfl⟩

/-- One response for each command, of a status GENDEC may give, with data as R74 has it. -/
theorem cycle_response {p : Params} (off : p.miscHighMux = .off) (c : Cmd) (bus : BusReq → BusAnswer) (g : Gendec) :
    (cycle p c bus g).response.status ≠ .transportFault ∧
    ((cycle p c bus g).response.data.isSome = true ↔
      (cycle p c bus g).response.status = .ok ∧ decodeOpcode c.opcode = some .genRomRd) := by
  obtain ⟨_, illegal⟩ | ⟨i, decoded, performed, _⟩ := cycle_cases off c bus g
  · simp [illegal]
  · have ended := perform_ended p i bus g.take
    have named : decodeOpcode c.opcode = some i.op := by
      rw [decode_eq_ok_iff.1 decoded]
      exact decodeOpcode_number i.op
    rw [performed, named, Option.some_inj]
    exact ⟨ended.status_ne_transportFault, ended.data_isSome_iff⟩

/-- Settles O33: the command is recorded with its one response, which `cycle_response` describes. -/
theorem eachCommandGetsOneResponse : Obligations.EachCommandGetsOneResponse := by
  intro s c rest taken
  exact ⟨_, _, step_eq_cycle taken, Outside.after_responses .., Outside.after_k .., Outside.after_pending ..,
    (cycle_legal rfl c _ _).ready, cycle_response rfl c _ _⟩

end Sys2Proof.Machine

/-! SUPPORT. What the commands do to the reference cartridge, and what each family leaves unchanged (20_memory.md R46,
42_bus_access.md, 43_flash_write.md R123). -/

namespace Sys2Proof.Machine

/-! ### The cartridge after a command -/

/-- The cartridge after an instruction: as before, or what its own request leaves if the cartridge answered it. -/
theorem State.record_perform_mem (p : Params) (i : Instr) (s : State) :
    (s.record (perform p i s.busAnswer s.toGendec)).mem =
      if s.answers = [] ∧ s.refCart = true then (requestOf p i s.toGendec).elim s.mem (refCartAfter s.mem)
      else s.mem := by
  rw [State.record_toOutside, perform_transfer]
  cases requestOf p i s.toGendec with
  | none => exact (ite_self _).symm
  | some req => simp only [Option.map_some, Outside.after_some, Outside.collect_eq, Option.elim_some]; rfl

/-- A byte that no request of the instruction writes is as it was. -/
theorem State.cartByte_record_perform {i : Instr} {s : State} {key : Nat}
    (untouched : ∀ req, requestOf params i s.toGendec = some req →
      Memory.read (refCartAfter s.mem req) key = Memory.read s.mem key) :
    (s.record (perform params i s.busAnswer s.toGendec)).cartByte key = s.cartByte key := by
  rw [Outside.cartByte, State.record_perform_mem]
  split
  · cases own : requestOf params i s.toGendec with
    | none => rfl
    | some req => exact untouched req own
  · rfl

/-! ### Frames -/

/-- Settles O38: the commit of each opcode is the write of its one register, and neither makes a request. -/
theorem addressSettingFrame : Obligations.AddressSettingFrame := by
  intro o m s t i either stepped
  obtain rfl | rfl := either
  · obtain rfl := Host.Outcome.next.inj ((setAddrLoadsLow o m s).symm.trans stepped)
    exact ⟨fun _ => ⟨rfl, rfl⟩, nofun, rfl, rfl, rfl, rfl, fun _ => rfl⟩
  · obtain rfl := Host.Outcome.next.inj ((setBankLoadsHigh o m s).symm.trans stepped)
    exact ⟨nofun, fun _ => ⟨rfl, rfl⟩, rfl, rfl, rfl, rfl, fun _ => rfl⟩

/-- What opcodes 1, 3 and 4 do to GENDEC whichever way they end: HIGH is kept, LOW is kept or takes the operand. -/
theorem Ended.bus_access_registers {i : Instr} {bus : BusReq → BusAnswer} {g : Gendec} {d : Done}
    (ended : Ended params i bus g d) (stores : storesOperand i.op) :
    d.gendec.high = g.high ∧ d.gendec.highWritten = g.highWritten ∧
    (d.gendec.low = g.low ∧ d.gendec.lowWritten = g.lowWritten ∨
      d.gendec.low = i.operand ∧ d.gendec.lowWritten = true) := by
  have commit : commitOf params i g = g.setLow i.operand := by
    cases i <;> simp_all [Instr.op, Instr.operand, commitOf, storesOperand]
  rw [ended.gendec_eq, commit]
  split
  · exact ⟨rfl, rfl, .inr ⟨rfl, rfl⟩⟩
  · exact ⟨rfl, rfl, .inl ⟨rfl, rfl⟩⟩

/-- Settles O39: the registers by `Ended.bus_access_registers`, the bytes by the one lane each request writes. -/
theorem busAccessFrame : Obligations.BusAccessFrame := by
  intro a m s t i either stepped
  have stores : storesOperand i.op ∧ i.operand = a := by
    obtain rfl | rfl | rfl := either <;> simp [storesOperand, Instr.op, Instr.operand]
  obtain rfl := exec_next_iff.1 stepped
  obtain ⟨high, highWritten, low⟩ :=
    (perform_ended params i s.busAnswer s.toGendec).bus_access_registers stores.1
  rw [stores.2] at low
  refine ⟨high, highWritten, low, Outside.after_pending .., Outside.after_refCart .., ?_, ?_, ?_⟩
  · rintro rfl key
    refine State.cartByte_record_perform fun req own => ?_
    obtain rfl := Option.some.inj ((requestOf_genRomRd ..).symm.trans own)
    rfl
  · rintro rfl key other
    refine State.cartByte_record_perform fun req own => ?_
    rw [requestOf_genWrLo, Option.ite_none_right_eq_some, Option.some_inj] at own
    obtain ⟨_, rfl⟩ := own
    exact Memory.read_write_ne _ _ other
  · rintro rfl key other
    refine State.cartByte_record_perform fun req own => ?_
    rw [requestOf_genWrHi, Option.ite_none_right_eq_some, Option.some_inj] at own
    obtain ⟨_, rfl⟩ := own
    exact Memory.read_write_ne _ _ other

/-- The two flash opcodes commit nothing and write one word, at the effective address (R121 to R123). -/
theorem flash_commit_and_request {d off : Word} {i : Instr}
    (either : i = .genFlashWrAddroff d off ∨ i = .genSstFlashWrAddroff d off) (g : Gendec) (m : Memory) :
    commitOf params i g = g ∧
    ∃ req, requestOf params i g = some req ∧ refCartAfter m req =
      Memory.writeLane (Memory.writeLane m (effectiveAddr g.high g.low off) .low (some (d.extractLsb' 0 8)))
        (effectiveAddr g.high g.low off) .high (some (d.extractLsb' 8 8)) := by
  obtain rfl | rfl := either
  · exact ⟨rfl, _, requestOf_genFlashWrAddroff .., rfl⟩
  · exact ⟨rfl, _, requestOf_genSstFlashWrAddroff .., rfl⟩

/-- Settles O40: nothing is committed, and the request writes the two lanes of one word. -/
theorem flashWriteFrame : Obligations.FlashWriteFrame := by
  intro d off s t i either stepped
  obtain rfl := exec_next_iff.1 stepped
  obtain ⟨commit, req, own, written⟩ := flash_commit_and_request either s.toGendec s.mem
  have registers : (perform params i s.busAnswer s.toGendec).gendec = s.toGendec.release := by
    rw [(perform_ended params i s.busAnswer s.toGendec).gendec_eq, commit, ite_self]
  refine ⟨?_, ?_, ?_, ?_, Outside.after_pending .., Outside.after_refCart .., fun key low high => ?_⟩
  iterate 4 rw [State.record_toGendec, registers]; rfl
  refine State.cartByte_record_perform fun req' own' => ?_
  obtain rfl := Option.some.inj (own.symm.trans own')
  rw [written]
  exact (Memory.read_write_ne _ _ high).trans (Memory.read_write_ne _ _ low)

/-! ### The reference cartridge (R46) -/

/-- A word is its two bytes. -/
theorem high_append_low (v : Word) : v.extractLsb' 8 8 ++ v.extractLsb' 0 8 = v := by
  apply BitVec.eq_of_toNat_eq
  have := v.isLt
  rw [BitVec.toNat_append, ← Nat.shiftLeft_add_eq_or_of_lt (BitVec.isLt _), BitVec.extractLsb'_toNat,
    BitVec.extractLsb'_toNat, Nat.shiftLeft_eq, Nat.shiftRight_eq_div_pow]
  omega

/-- A word of the cartridge is its two lanes. -/
theorem Memory.readWord_eq (m : Memory) (a : WordAddr) :
    Memory.readWord m a = Memory.read m (laneKey a .high) ++ Memory.read m (laneKey a .low) := rfl

section
variable {m : Memory} (canonical : Memory.wf m = true) (a x : WordAddr) (v w : Byte)
include canonical

/-- A word after its low lane was written. -/
theorem Memory.readWord_writeLow :
    Memory.readWord (Memory.writeLane m a .low (some v)) x =
      if x = a then (Memory.readWord m x).extractLsb' 8 8 ++ v else Memory.readWord m x := by
  rw [Memory.readWord_eq, Memory.read_writeLane canonical, Memory.read_writeLane canonical, Memory.readWord_high]
  by_cases same : x = a <;> simp [same, Memory.readWord_eq]

/-- A word after its high lane was written. -/
theorem Memory.readWord_writeHigh :
    Memory.readWord (Memory.writeLane m a .high (some v)) x =
      if x = a then v ++ (Memory.readWord m x).extractLsb' 0 8 else Memory.readWord m x := by
  rw [Memory.readWord_eq, Memory.read_writeLane canonical, Memory.read_writeLane canonical, Memory.readWord_low]
  by_cases same : x = a <;> simp [same, Memory.readWord_eq]

/-- A word after both its lanes were written. -/
theorem Memory.readWord_writeBoth :
    Memory.readWord (Memory.writeLane (Memory.writeLane m a .low (some v)) a .high (some w)) x =
      if x = a then w ++ v else Memory.readWord m x := by
  rw [Memory.readWord_writeHigh (Memory.wf_writeLane canonical a .low (some v)), Memory.readWord_writeLow canonical]
  by_cases same : x = a
  · simp only [same, if_true, BitVec.extractLsb'_append_eq_right]
  · simp only [same, if_false]

end

/-- An instruction whose request the reference cartridge answers: it never fails, so the command commits, and the
cartridge holds what the request leaves. -/
theorem exec_of_refCart {i : Instr} {s : State} {req : BusReq} (noneFixed : s.answers = []) (cart : s.refCart = true)
    (own : requestOf params i s.toGendec = some req) :
    ∃ t, exec i s = .next t ∧ t.mem = refCartAfter s.mem req ∧
      t.responses = s.responses ++ [⟨.ok, Stages.okData i.op (refCartAnswer s.mem req)⟩] := by
  have answer := Outside.busAnswer_of_refCart noneFixed cart req
  refine ⟨_, exec_of_ok own (answer ▸ refCartAnswer_ok s.mem req), if_pos ⟨noneFixed, cart⟩, ?_⟩
  simp only [answer]

/-- Settles O45: each opcode's own request, and a word after the lanes it writes. -/
theorem referenceCartridgeFacts : Obligations.ReferenceCartridgeFacts := by
  intro s a m x noneFixed cart canonical
  refine ⟨fun byte => ?_, fun byte => ?_, fun i either => ?_, ?_⟩
  · obtain ⟨t, stepped, mem, _⟩ := exec_of_refCart noneFixed cart (requestOf_genWrLo_of_byte byte a _)
    exact ⟨t, stepped, mem ▸ Memory.readWord_writeLow canonical ..⟩
  · obtain ⟨t, stepped, mem, _⟩ := exec_of_refCart noneFixed cart (requestOf_genWrHi_of_byte byte a _)
    exact ⟨t, stepped, mem ▸ Memory.readWord_writeHigh canonical ..⟩
  · obtain ⟨_, req, own, written⟩ := flash_commit_and_request either s.toGendec s.mem
    obtain ⟨t, stepped, mem, _⟩ := exec_of_refCart noneFixed cart own
    refine ⟨t, stepped, ?_⟩
    rw [mem, written, Memory.readWord_writeBoth canonical, high_append_low]
  · exact exec_of_refCart noneFixed cart (requestOf_genRomRd params a m s.toGendec)

end Sys2Proof.Machine

/-! SUPPORT. Runs: the commands in arrival order (40_dispatch.md R72, R73, R81; 70_reset_and_hazards.md R171), the run of
the step relation under an oracle (20_memory.md R44), and the low byte that high-byte writes leave (42_bus_access.md R104). -/

namespace Sys2Proof.Machine

/-! ### The state after the first command -/

/-- The state after a step that takes command `c` and leaves `rest` offered. -/
def State.answered (c : Cmd) (rest : List Cmd) (s : State) : State :=
  (s.take rest).record (cycle params c s.busAnswer s.toGendec)

section
variable (c : Cmd) (rest : List Cmd) (s : State)

@[simp] theorem State.answered_busy : (s.answered c rest).busy = false := (cycle_legal rfl c _ _).ready
@[simp] theorem State.answered_pending : (s.answered c rest).pending = rest := Outside.after_pending ..
@[simp] theorem State.answered_k : (s.answered c rest).k = s.k + 1 := Outside.after_k ..
@[simp] theorem State.answered_refCart : (s.answered c rest).refCart = s.refCart := Outside.after_refCart ..
@[simp] theorem State.answered_earlier : (s.answered c rest).earlier = s.earlier := Outside.after_earlier ..
@[simp] theorem State.answered_responses :
    (s.answered c rest).responses = s.responses ++ [(cycle params c s.busAnswer s.toGendec).response] :=
  Outside.after_responses ..
@[simp] theorem State.answered_history :
    (s.answered c rest).history = s.history ++ (cycle params c s.busAnswer s.toGendec).transfer.toList :=
  Outside.after_history ..

end

/-- A command with no answer fixed in advance leaves none. -/
theorem State.answered_answers_of_nil {s : State} (noneFixed : s.answers = []) (c : Cmd) (rest : List Cmd) :
    (s.answered c rest).answers = [] := by
  unfold State.answered
  rw [State.record_toOutside]
  cases (cycle params c s.busAnswer s.toGendec).transfer with
  | none => exact noneFixed
  | some x => simp [noneFixed]

/-- A step of a GENDEC that is not busy takes the first command. -/
theorem step_of_pending {s : State} {c : Cmd} {rest : List Cmd} (ready : s.busy = false) (arrived : s.pending = c :: rest) :
    step s = .next (s.answered c rest) :=
  step_eq_cycle (State.offer_eq_command.2 ⟨ready, arrived⟩)

/-- So a run of a GENDEC that is not busy takes the first command and goes on. -/
theorem run_of_pending {s : State} {c : Cmd} {rest : List Cmd} (ready : s.busy = false) (arrived : s.pending = c :: rest)
    (n : Nat) : Host.Core.run core (n + 1) s = Host.Core.run core n (s.answered c rest) :=
  run_succ core (step_of_pending ready arrived)

/-! ### The commands are taken in arrival order -/

/-- Settles O44, by induction on the steps: each takes the first command and adds its response, and records stay. -/
theorem runAnswersCommandsInOrder : Obligations.RunAnswersCommandsInOrder := by
  intro n
  induction n with
  | zero => exact fun s ready => ⟨s, rfl, ready, rfl, rfl, rfl, List.prefix_rfl, List.prefix_rfl⟩
  | succ n ih =>
    intro s ready
    cases arrived : s.pending with
    | nil =>
      have still : step s = .next s := step_nothing (State.offer_eq_nothing.2 (.inr arrived))
      exact ⟨s, run_of_step_self still _, ready, by simp [arrived]⟩
    | cons c rest =>
      obtain ⟨t, ran, readyEnd, pending, index, count, responsesKept, historyKept⟩ := ih _ (s.answered_busy c rest)
      simp only [State.answered_pending, State.answered_k, State.answered_responses, State.answered_history,
        List.length_append, List.length_singleton] at pending index count responsesKept historyKept
      refine ⟨t, (run_of_pending ready arrived n).trans ran, readyEnd, pending, ?_, ?_,
        (List.prefix_append _ _).trans responsesKept, (List.prefix_append _ _).trans historyKept⟩
      · rw [index, List.length_cons]; omega
      · rw [count, List.length_cons]; omega

/-! ### A run of steps is a run of the step relation -/

/-- A command advances the trace, if the surroundings serve it as the oracle does. -/
theorem State.answered_trace {s : State} {bus : List Transfer → BusReq → BusAnswer} {c : Cmd}
    (agree : cycle params c s.busAnswer s.toGendec = cycle params c (bus s.history) s.toGendec) (rest : List Cmd) :
    (s.answered c rest).trace = s.trace.advance params bus c := by
  simp only [State.trace, Trace.advance, State.answered_history, State.answered_responses, agree]
  rw [← agree]
  rfl

/-- Settles O52, by induction on the commands: the surroundings answer each as the free oracle does. -/
theorem freeAnswersRunTheSession : Obligations.FreeAnswersRunTheSession := by
  intro s
  induction arrived : s.pending generalizing s with
  | nil => exact fun _ _ _ => ⟨s, rfl, rfl, arrived⟩
  | cons c rest ih =>
    intro ready noneFixed noCart
    have free : s.busAnswer = Config.busAnswer s.earlier s.history :=
      funext (Outside.busAnswer_free noneFixed noCart)
    obtain ⟨t, ran, trace, pending⟩ := ih (s.answered c rest) (State.answered_pending ..) (State.answered_busy ..)
      (State.answered_answers_of_nil noneFixed c rest) ((State.answered_refCart ..).trans noCart)
    rw [State.answered_earlier, State.answered_trace (bus := Config.busAnswer s.earlier) (by rw [free])] at trace
    exact ⟨t, (run_of_pending ready arrived _).trans ran, trace, pending⟩

/-- Oracles that agree on the requests of a command's instruction serve the command alike. -/
theorem cycle_congr_oracle {p : Params} {c : Cmd} {bus bus' : BusReq → BusAnswer} {g : Gendec}
    (agree : ∀ i req, decode c = .ok i → requestOf p i g = some req → bus req = bus' req) :
    cycle p c bus g = cycle p c bus' g := by
  unfold cycle
  cases decoded : decode c with
  | ok i => exact onlyTheOwnRequestsAnswerMatters p i bus bus' g.take (agree i · decoded)
  | error r => rfl

/-- The answers an oracle gives to the one request of a command, or to none. -/
def answersTo (bus : BusReq → BusAnswer) (c : Cmd) (g : Gendec) : List BusAnswer :=
  (cycle params c bus g).transfer.toList.map (·.answer)

/-- With its own answers fixed in advance, before any others, a command is served as by the oracle. -/
theorem cycle_of_answersTo {s : State} {bus : BusReq → BusAnswer} {c : Cmd} {later : List BusAnswer}
    (fixed : s.answers = answersTo bus c s.toGendec ++ later) :
    cycle params c s.busAnswer s.toGendec = cycle params c bus s.toGendec := by
  refine cycle_congr_oracle fun i req decoded own => ?_
  have asked : (cycle params c bus s.toGendec).transfer = some ⟨req, bus req⟩ := by
    unfold cycle
    rw [decoded]
    exact (perform_transfer params i bus _).trans (by rw [requestOf_take, own]; rfl)
  rw [answersTo, asked] at fixed
  exact Outside.busAnswer_of_answers fixed req

/-- With its own answers fixed in advance, a command uses exactly these: nothing it leaves depends on those behind. -/
theorem State.answered_of_answersTo {s : State} {bus : BusReq → BusAnswer} {c : Cmd} (rest : List Cmd)
    (later : List BusAnswer) :
    State.answered c rest { s with answers := answersTo bus c s.toGendec ++ later } =
      { State.answered c rest { s with answers := answersTo bus c s.toGendec } with answers := later } := by
  have served := cycle_of_answersTo (s := { s with answers := answersTo bus c s.toGendec ++ later }) rfl
  have servedAlone := cycle_of_answersTo (s := { s with answers := answersTo bus c s.toGendec })
    (List.append_nil _).symm
  simp only [State.answered, served, servedAlone]
  obtain ⟨x, made⟩ : ∃ x, (cycle params c bus s.toGendec).transfer = x := ⟨_, rfl⟩
  simp only [State.record, answersTo, made]
  cases x <;> rfl

/-- The answers an oracle gives to the commands offered, in order: those of the first command, then those of the rest. -/
theorem exists_answers (bus : List Transfer → BusReq → BusAnswer) (cmds : List Cmd) :
    ∀ s : State, s.pending = cmds → s.busy = false →
      ∃ (answers : List BusAnswer) (t : State),
        Host.Core.run core cmds.length { s with answers := answers } = .next t ∧
        t.trace = Trace.run params bus cmds s.trace ∧ t.pending = [] ∧ t.answers = [] := by
  induction cmds with
  | nil => exact fun s arrived _ => ⟨[], { s with answers := [] }, rfl, rfl, arrived, rfl⟩
  | cons c rest ih =>
    intro s arrived ready
    obtain ⟨own, hown⟩ : ∃ own, own = answersTo (bus s.history) c s.toGendec := ⟨_, rfl⟩
    obtain ⟨later, t, ran, trace, pending, used⟩ :=
      ih (State.answered c rest { s with answers := own }) (State.answered_pending ..) (State.answered_busy ..)
    refine ⟨own ++ later, t, ?_, ?_, pending, used⟩
    · have first := run_of_pending (s := { s with answers := own ++ later }) ready arrived rest.length
      rw [hown, State.answered_of_answersTo, ← hown] at first
      exact first.trans ran
    · have agree := cycle_of_answersTo (s := { s with answers := own }) (c := c) (bus := bus s.history) (later := [])
        (by rw [List.append_nil, hown])
      rw [trace, State.answered_trace (bus := bus) agree]
      rfl

/-- Settles O51, by `exists_answers` for the commands offered. -/
theorem everyOracleIsAListOfAnswers : Obligations.EveryOracleIsAListOfAnswers :=
  fun bus s ready => exists_answers bus s.pending s rfl ready

/-! ### The low byte of a word under high-byte writes -/

/-- The reference cartridge answers an idle GENDEC, and the word at `HIGH[6:0] : a` has the low byte `v`. -/
structure State.HoldsLow (a : Word) (v : Byte) (s : State) : Prop where
  ready : s.busy = false
  noneFixed : s.answers = []
  cart : s.refCart = true
  canonical : Memory.wf s.mem = true
  held : Memory.read s.mem (laneKey (bankAddr s.high a) .low) = v

/-- The command of an instruction runs it (R71). -/
@[simp] theorem cycle_encode (p : Params) (i : Instr) (bus : BusReq → BusAnswer) (g : Gendec) :
    cycle p (encode i) bus g = perform p i bus g.take := by
  unfold cycle
  rw [decode_encode]

/-- The cartridge after the command of an instruction, when the cartridge answers. -/
theorem State.answered_encode_mem {s : State} (noneFixed : s.answers = []) (cart : s.refCart = true) (i : Instr)
    (rest : List Cmd) :
    (s.answered (encode i) rest).mem = (requestOf params i s.toGendec).elim s.mem (refCartAfter s.mem) := by
  have mem := State.record_perform_mem params i (s.take rest)
  rw [if_pos ⟨noneFixed, cart⟩] at mem
  rw [State.answered, cycle_encode]
  exact mem

/-- HIGH after the command of an instruction other than GEN_SET_BANK. -/
theorem State.answered_encode_high {i : Instr} (other : i.op ≠ .genSetBank) (s : State) (rest : List Cmd) :
    (s.answered (encode i) rest).high = s.high := by
  have high := (perform_ended params i s.busAnswer s.toGendec.take).high_eq rfl
  rw [if_neg other] at high
  rw [State.answered, cycle_encode]
  exact high

/-- What an instruction other than GEN_SET_BANK leaves in the word, when the cartridge answers. -/
theorem State.HoldsLow.of_encode {s : State} (noneFixed : s.answers = []) (cart : s.refCart = true)
    (canonical : Memory.wf s.mem = true) {i : Instr} (other : i.op ≠ .genSetBank)
    {a : Word} {v : Byte}
    (left : Memory.read ((requestOf params i s.toGendec).elim s.mem (refCartAfter s.mem))
      (laneKey (bankAddr s.high a) .low) = v) (rest : List Cmd) : (s.answered (encode i) rest).HoldsLow a v where
  ready := State.answered_busy ..
  noneFixed := State.answered_answers_of_nil noneFixed ..
  cart := (State.answered_refCart ..).trans cart
  canonical := by
    rw [State.answered_encode_mem noneFixed cart]
    cases requestOf params i s.toGendec with
    | none => exact canonical
    | some req => exact Memory.wf_refCartAfter canonical req
  held := by rw [State.answered_encode_mem noneFixed cart, State.answered_encode_high other, left]

/-- A high-byte write, in range or not, leaves every low byte (R102). -/
theorem State.HoldsLow.wrHi {s : State} {a : Word} {v : Byte} (holds : s.HoldsLow a v) (o m : Word) (rest : List Cmd) :
    (s.answered (encode (.genWrHi o m)) rest).HoldsLow a v := by
  refine .of_encode holds.noneFixed holds.cart holds.canonical (by simp [Instr.op]) ?_ rest
  rw [requestOf_genWrHi]
  cases fieldInRange params 8 m with
  | false => exact holds.held
  | true =>
    have otherLane : laneKey (bankAddr s.high a) .low ≠ laneKey (bankAddr s.high o) .high := by simp [laneKey_inj]
    exact (Memory.read_write_ne _ _ otherLane).trans holds.held

/-- A low-byte write in range leaves its byte (R101). -/
theorem State.HoldsLow.of_wrLo {s : State} (noneFixed : s.answers = []) (cart : s.refCart = true)
    (canonical : Memory.wf s.mem = true) (a : Word) {b : Word} (byte : b.toNat ≤ 0x00FF)
    (rest : List Cmd) : (s.answered (encode (.genWrLo a b)) rest).HoldsLow a (b.extractLsb' 0 8) := by
  refine .of_encode noneFixed cart canonical (by simp [Instr.op]) ?_ rest
  rw [requestOf_genWrLo_of_byte byte]
  exact (Memory.read_writeLane canonical ..).trans (if_pos ⟨rfl, rfl⟩)

/-- A read returns the word that holds the byte (R100). -/
theorem State.HoldsLow.romRd {s : State} {a : Word} {v : Byte} (holds : s.HoldsLow a v) (n : Word) (rest : List Cmd) :
    ∃ w : Word, (s.answered (encode (.genRomRd a n)) rest).responses.getLast? = some ⟨.ok, some w⟩ ∧
      w.extractLsb' 0 8 = v := by
  refine ⟨Memory.readWord s.mem (bankAddr s.high a), ?_, (Memory.readWord_low ..).trans holds.held⟩
  have own := requestOf_genRomRd params a n s.toGendec.take
  have answer := Outside.busAnswer_of_refCart holds.noneFixed holds.cart (romRdReq params a s.toGendec.take)
  rw [State.answered_responses, List.getLast?_append, List.getLast?_singleton, Option.some_or, cycle_encode,
    perform_of_ok own (answer ▸ refCartAnswer_ok ..), Gendec.respond_response, answer]
  rfl

/-- A byte held is read back after any high-byte writes, by induction on these. -/
theorem State.HoldsLow.run_wrHi_romRd {a : Word} {v : Byte} (n : Word) (later : List Cmd) (highs : List (Word × Word)) :
    ∀ s : State, s.HoldsLow a v →
      s.pending = (highs.map fun h => encode (.genWrHi h.1 h.2)) ++ encode (.genRomRd a n) :: later →
      ∃ (t : State) (w : Word), Host.Core.run core (highs.length + 1) s = .next t ∧ t.pending = later ∧
        t.responses.getLast? = some ⟨.ok, some w⟩ ∧ w.extractLsb' 0 8 = v := by
  induction highs with
  | nil =>
    intro s holds arrived
    obtain ⟨w, last, low⟩ := holds.romRd n later
    exact ⟨_, w, run_of_pending holds.ready arrived 0, State.answered_pending .., last, low⟩
  | cons h highs ih =>
    intro s holds arrived
    rw [List.length_cons, run_of_pending holds.ready arrived]
    exact ih _ (holds.wrHi h.1 h.2 _) (State.answered_pending ..)

/-- Settles O46: the low-byte write leaves its byte, and `State.HoldsLow.run_wrHi_romRd` reads it back. -/
theorem lowByteSurvivesHighByteWrites : Obligations.LowByteSurvivesHighByteWrites := by
  intro s a b n highs later ready noneFixed cart canonical byte arrived
  rw [run_of_pending ready arrived]
  exact State.HoldsLow.run_wrHi_romRd n later highs _ (.of_wrLo noneFixed cart canonical a byte _)
    (State.answered_pending ..)

end Sys2Proof.Machine
